-- ==== Sys2Proof/Word.lean ====
section
/-! DEFINITION. The widths of the block: bytes, the 16-bit wire words of a device register, the 12-bit codes inside
them and the 24-bit command words (00_scope.md R7, R8; 30_encoding.md R81). -/

namespace Sys2Proof

/-- One byte of a transport call (20_memory.md R53). -/
abbrev Byte := BitVec 8

/-- A 16-bit wire word, the content of one device register (00_scope.md R7). -/
abbrev Word := BitVec 16

/-- A 12-bit conversion result or threshold (00_scope.md R7, R9). -/
abbrev Code := BitVec 12

/-- A 24-bit command word (30_encoding.md R81). -/
abbrev Cmd := BitVec 24

end Sys2Proof
end

