-- ==== Sys2Proof/Syntax.lean ====
section
/-! DEFINITION. The commands of the block, one constructor per row of spec/opcode_table.json (30_encoding.md R85), and
the record of configuration fields that MEASURE and CFG_ENCODE take (00_scope.md R12). -/

namespace Sys2Proof

/-- The nine configuration fields, in the order of 00_scope.md R12, with the widths of 10_state.md R31. -/
structure ConfigFields where
  status       : BitVec 1
  channel      : BitVec 3
  gain         : BitVec 3
  mode         : BitVec 1
  dataRate     : BitVec 3
  compMode     : BitVec 1
  compPolarity : BitVec 1
  compLatch    : BitVec 1
  compQueue    : BitVec 2
  deriving DecidableEq, Repr

/-- The name of a configuration field, in index order (30_encoding.md R84). -/
inductive Field where
  | status | channel | gain | mode | dataRate | compMode | compPolarity | compLatch | compQueue
  deriving DecidableEq, Repr

/-- A command: its opcode as a constructor and its 16 `arg` bits. How each format reads `arg` is 30_encoding.md R82:
`ignored` bits are read by no rule, `arg` is a field value or a threshold that must pass the format's admission check
(`Instr.wellFormed`), `word` is a wire word. The `req_fields` operand of format F stays on the command port. -/
inductive Instr where
  -- format N (42_config_access.md R143 to R159)
  | getStatus (ignored : Word)
  | getChannel (ignored : Word)
  | getGain (ignored : Word)
  | getMode (ignored : Word)
  | getDataRate (ignored : Word)
  | getCompMode (ignored : Word)
  | getCompPolarity (ignored : Word)
  | getCompLatch (ignored : Word)
  | getCompQueue (ignored : Word)
  -- format V (42_config_access.md R144 to R160)
  | setStatus (arg : Word)
  | setChannel (arg : Word)
  | setGain (arg : Word)
  | setMode (arg : Word)
  | setDataRate (arg : Word)
  | setCompMode (arg : Word)
  | setCompPolarity (arg : Word)
  | setCompLatch (arg : Word)
  | setCompQueue (arg : Word)
  -- format F (43_measure.md R180)
  | measure (ignored : Word)
  -- formats N and S (44_threshold.md R200 to R203)
  | getLoThresh (ignored : Word)
  | setLoThresh (arg : Word)
  | getHiThresh (ignored : Word)
  | setHiThresh (arg : Word)
  -- formats F, W, S, W, W (41_codec.md R127 to R131)
  | cfgEncode (ignored : Word)
  | cfgDecode (word : Word)
  | thEncode (arg : Word)
  | thDecode (word : Word)
  | resDecode (word : Word)
  deriving DecidableEq, Repr

/-- The five readings of `arg` (30_encoding.md R82). -/
inductive Format where
  /-- `N`: no operand. -/
  | none
  /-- `V`: an unsigned value of the named field's width. -/
  | value (f : Field)
  /-- `S`: a threshold in −2048..2047. -/
  | signed
  /-- `W`: a 16-bit wire word. -/
  | word
  /-- `F`: the record on the `req_fields` port. -/
  | fields
  deriving DecidableEq, Repr

/-- Why a command word is refused (40_sequencer.md R105). -/
inductive RefuseReason where
  /-- 30_encoding.md R86. -/
  | reservedOpcode
  /-- 30_encoding.md R83, format V. -/
  | argOutOfField
  /-- 30_encoding.md R83, format S. -/
  | thresholdOutOfRange
  deriving DecidableEq, Repr

/-- What decoding a command word gives: a command, or `REFUSE(reason)` (30_encoding.md R88). -/
inductive Decoded where
  | command (i : Instr)
  | refuse (reason : RefuseReason)
  deriving DecidableEq, Repr

end Sys2Proof
end

