-- ==== Sys2Proof/Machine/Operands.lean ====
section
/-! DEFINITION. The operand forms: where each configuration field stands and how wide it is (30_encoding.md R84), the
admission checks of formats V and S and the operands they assemble (30_encoding.md R82, R83), and the format of each
command. -/

namespace Sys2Proof

/-- The field index `i` (30_encoding.md R84). -/
def Field.index : Field → Nat
  | .status => 0
  | .channel => 1
  | .gain => 2
  | .mode => 3
  | .dataRate => 4
  | .compMode => 5
  | .compPolarity => 6
  | .compLatch => 7
  | .compQueue => 8

/-- The width `w` of a field (30_encoding.md R84). -/
def Field.width : Field → Nat
  | .status => 1
  | .channel => 3
  | .gain => 3
  | .mode => 1
  | .dataRate => 3
  | .compMode => 1
  | .compPolarity => 1
  | .compLatch => 1
  | .compQueue => 2

/-- The lowest bit of a field in the configuration word (30_encoding.md R84, 10_state.md R31). -/
def Field.lo : Field → Nat
  | .status => 15
  | .channel => 12
  | .gain => 9
  | .mode => 8
  | .dataRate => 5
  | .compMode => 4
  | .compPolarity => 3
  | .compLatch => 2
  | .compQueue => 0

/-- Format V's admission check, `arg[15:w] = 0` (30_encoding.md R83, 42_config_access.md R142). -/
def argFits (f : Field) (arg : Word) : Bool := arg >>> f.width = 0

/-- Format V's operand, `arg[w-1:0]` (30_encoding.md R82, R83). -/
def fieldOperand (f : Field) (arg : Word) : BitVec f.width := arg.extractLsb' 0 f.width

/-- Format S's admission check, `arg[15:11]` all zeros or all ones (30_encoding.md R83, 44_threshold.md R204). -/
def thresholdFits (arg : Word) : Bool :=
  arg.extractLsb' 11 5 = 0b00000#5 || arg.extractLsb' 11 5 = 0b11111#5

/-- Format S's operand, `arg[11:0]` read as two's complement (30_encoding.md R82, R83). -/
def thresholdOperand (arg : Word) : Code := arg.extractLsb' 0 12

/-- The GET command of a field (30_encoding.md R85, R88). -/
def getInstr : Field → Word → Instr
  | .status => .getStatus
  | .channel => .getChannel
  | .gain => .getGain
  | .mode => .getMode
  | .dataRate => .getDataRate
  | .compMode => .getCompMode
  | .compPolarity => .getCompPolarity
  | .compLatch => .getCompLatch
  | .compQueue => .getCompQueue

/-- The SET command of a field (30_encoding.md R85, R88). -/
def setInstr : Field → Word → Instr
  | .status => .setStatus
  | .channel => .setChannel
  | .gain => .setGain
  | .mode => .setMode
  | .dataRate => .setDataRate
  | .compMode => .setCompMode
  | .compPolarity => .setCompPolarity
  | .compLatch => .setCompLatch
  | .compQueue => .setCompQueue

/-- The format of each command (30_encoding.md R85). -/
def Instr.format : Instr → Format
  | .getStatus _ => .none
  | .getChannel _ => .none
  | .getGain _ => .none
  | .getMode _ => .none
  | .getDataRate _ => .none
  | .getCompMode _ => .none
  | .getCompPolarity _ => .none
  | .getCompLatch _ => .none
  | .getCompQueue _ => .none
  | .setStatus _ => .value .status
  | .setChannel _ => .value .channel
  | .setGain _ => .value .gain
  | .setMode _ => .value .mode
  | .setDataRate _ => .value .dataRate
  | .setCompMode _ => .value .compMode
  | .setCompPolarity _ => .value .compPolarity
  | .setCompLatch _ => .value .compLatch
  | .setCompQueue _ => .value .compQueue
  | .measure _ => .fields
  | .getLoThresh _ => .none
  | .setLoThresh _ => .signed
  | .getHiThresh _ => .none
  | .setHiThresh _ => .signed
  | .cfgEncode _ => .fields
  | .cfgDecode _ => .word
  | .thEncode _ => .signed
  | .thDecode _ => .word
  | .resDecode _ => .word

/-- The 16 bits `arg` of a command's word (30_encoding.md R81). -/
def Instr.argument : Instr → Word
  | .getStatus a => a
  | .getChannel a => a
  | .getGain a => a
  | .getMode a => a
  | .getDataRate a => a
  | .getCompMode a => a
  | .getCompPolarity a => a
  | .getCompLatch a => a
  | .getCompQueue a => a
  | .setStatus a => a
  | .setChannel a => a
  | .setGain a => a
  | .setMode a => a
  | .setDataRate a => a
  | .setCompMode a => a
  | .setCompPolarity a => a
  | .setCompLatch a => a
  | .setCompQueue a => a
  | .measure a => a
  | .getLoThresh a => a
  | .setLoThresh a => a
  | .getHiThresh a => a
  | .setHiThresh a => a
  | .cfgEncode a => a
  | .cfgDecode a => a
  | .thEncode a => a
  | .thDecode a => a
  | .resDecode a => a

end Sys2Proof
end

