-- ==== Sys2Proof/WellFormed.lean ====
section
/-! DEFINITION. Which commands are admitted: the checks a format makes of its `arg` (30_encoding.md R82, R83). -/

namespace Sys2Proof

/-- A format's admission check of `arg`: only V and S have one (30_encoding.md R83). -/
def Format.admits : Format → Word → Bool
  | .none, _ => true
  | .value f, arg => argFits f arg
  | .signed, arg => thresholdFits arg
  | .word, _ => true
  | .fields, _ => true

/-- A command whose `arg` its format admits. -/
def Instr.wellFormed (i : Instr) : Bool := i.format.admits i.argument

end Sys2Proof
end

