-- ==== Sys2Proof/Decode.lean ====
section
/-! DEFINITION. Decoding a 24-bit command word, total on all 2^24 words, and the encoder (30_encoding.md R81, R85, R88).
The opcode numbers are the table of R85; reserved opcodes and arguments outside their field or range are refused by
name (R86, R83). -/

namespace Sys2Proof

/-- A SET word of field `f`: refused as `arg_out_of_field` unless `arg[15:w] = 0` (30_encoding.md R88). -/
def decodeSet (f : Field) (arg : Word) : Decoded :=
  if argFits f arg then .command (setInstr f arg) else .refuse .argOutOfField

/-- A word of format S: refused as `threshold_out_of_range` unless `arg` is in −2048..2047 (30_encoding.md R88). -/
def decodeSigned (mk : Word → Instr) (arg : Word) : Decoded :=
  if thresholdFits arg then .command (mk arg) else .refuse .thresholdOutOfRange

/-- The opcode map (30_encoding.md R85, R88), on the two halves of a command word. -/
def decodeParts (op : BitVec 8) (arg : Word) : Decoded :=
  match op.toNat with
  | 0x10 => .command (.getStatus arg)
  | 0x11 => .command (.getChannel arg)
  | 0x12 => .command (.getGain arg)
  | 0x13 => .command (.getMode arg)
  | 0x14 => .command (.getDataRate arg)
  | 0x15 => .command (.getCompMode arg)
  | 0x16 => .command (.getCompPolarity arg)
  | 0x17 => .command (.getCompLatch arg)
  | 0x18 => .command (.getCompQueue arg)
  | 0x20 => decodeSet .status arg
  | 0x21 => decodeSet .channel arg
  | 0x22 => decodeSet .gain arg
  | 0x23 => decodeSet .mode arg
  | 0x24 => decodeSet .dataRate arg
  | 0x25 => decodeSet .compMode arg
  | 0x26 => decodeSet .compPolarity arg
  | 0x27 => decodeSet .compLatch arg
  | 0x28 => decodeSet .compQueue arg
  | 0x30 => .command (.measure arg)
  | 0x40 => .command (.getLoThresh arg)
  | 0x41 => decodeSigned .setLoThresh arg
  | 0x42 => .command (.getHiThresh arg)
  | 0x43 => decodeSigned .setHiThresh arg
  | 0x50 => .command (.cfgEncode arg)
  | 0x51 => .command (.cfgDecode arg)
  | 0x52 => decodeSigned .thEncode arg
  | 0x53 => .command (.thDecode arg)
  | 0x54 => .command (.resDecode arg)
  | _ => .refuse .reservedOpcode

/-- `op`, bits 23 to 16 of a command word (30_encoding.md R81). -/
def cmdOp (cmd : Cmd) : BitVec 8 := cmd.extractLsb' 16 8

/-- `arg`, bits 15 to 0 of a command word (30_encoding.md R81). -/
def cmdArg (cmd : Cmd) : Word := cmd.extractLsb' 0 16

/-- `decode(cmd)` (30_encoding.md R88). -/
def decode (cmd : Cmd) : Decoded := decodeParts (cmdOp cmd) (cmdArg cmd)

/-- The opcode of each command (30_encoding.md R85). -/
def opcode : Instr → BitVec 8
  | .getStatus _ => 0x10
  | .getChannel _ => 0x11
  | .getGain _ => 0x12
  | .getMode _ => 0x13
  | .getDataRate _ => 0x14
  | .getCompMode _ => 0x15
  | .getCompPolarity _ => 0x16
  | .getCompLatch _ => 0x17
  | .getCompQueue _ => 0x18
  | .setStatus _ => 0x20
  | .setChannel _ => 0x21
  | .setGain _ => 0x22
  | .setMode _ => 0x23
  | .setDataRate _ => 0x24
  | .setCompMode _ => 0x25
  | .setCompPolarity _ => 0x26
  | .setCompLatch _ => 0x27
  | .setCompQueue _ => 0x28
  | .measure _ => 0x30
  | .getLoThresh _ => 0x40
  | .setLoThresh _ => 0x41
  | .getHiThresh _ => 0x42
  | .setHiThresh _ => 0x43
  | .cfgEncode _ => 0x50
  | .cfgDecode _ => 0x51
  | .thEncode _ => 0x52
  | .thDecode _ => 0x53
  | .resDecode _ => 0x54

/-- The command word of a command, `op ++ arg` (30_encoding.md R81). -/
def encode (i : Instr) : Cmd := opcode i ++ i.argument

/-- The command read from a word `w` whose bits are numbered as spec/opcode_table.json numbers them (bit 23 first, so
bits 23 to 16 are `op`; every command has 24 bits, 30_encoding.md R93). A number that has a bit above the word, or
above the `nbits` the table gives, is no command word (log 20). -/
def decodeTableWord (nbits w : Nat) : Option Instr :=
  if w < 2 ^ min nbits 24 then
    match decode (BitVec.ofNat 24 w) with
    | .command i => some i
    | .refuse _ => none
  else none

end Sys2Proof
end

