-- ==== Sys2Proof/Machine/Codec.lean ====
section
/-! DEFINITION. The register codec: pure, total functions on 16-bit words (41_codec.md R120 to R126), and the byte order
of a register value (20_memory.md R53). -/

namespace Sys2Proof.Machine

open Sys2Proof

/-- The word `b0 ++ b1` of two bytes read, big-endian (20_memory.md R53). -/
def wordOfBytes (b0 b1 : Byte) : Word := b0 ++ b1

/-- The byte sent first, `v[15:8]` (20_memory.md R53). -/
def firstByte (v : Word) : Byte := v.extractLsb' 8 8

/-- The byte sent second, `v[7:0]` (20_memory.md R53). -/
def secondByte (v : Word) : Byte := v.extractLsb' 0 8

/-- `decode(w)` (41_codec.md R120). -/
def decodeConfig (w : Word) : ConfigFields where
  status       := w.extractLsb' 15 1
  channel      := w.extractLsb' 12 3
  gain         := w.extractLsb' 9 3
  mode         := w.extractLsb' 8 1
  dataRate     := w.extractLsb' 5 3
  compMode     := w.extractLsb' 4 1
  compPolarity := w.extractLsb' 3 1
  compLatch    := w.extractLsb' 2 1
  compQueue    := w.extractLsb' 0 2

/-- `encode(F)` (41_codec.md R121). -/
def encodeConfig (F : ConfigFields) : Word :=
  F.status ++ F.channel ++ F.gain ++ F.mode ++ F.dataRate
    ++ F.compMode ++ F.compPolarity ++ F.compLatch ++ F.compQueue

/-- `field_get(w, i)` (41_codec.md R123). -/
def fieldGet (w : Word) (f : Field) : BitVec f.width := w.extractLsb' f.lo f.width

/-- `field_set(w, i, v)`: the bits of field `f` replaced by `v`, every other bit unchanged (41_codec.md R123). -/
def fieldSet (w : Word) (f : Field) (v : BitVec f.width) : Word :=
  (w &&& ~~~((BitVec.allOnes f.width).setWidth 16 <<< f.lo)) ||| (v.setWidth 16 <<< f.lo)

/-- `F.f` (00_scope.md R12). -/
def fieldOf (F : ConfigFields) : (f : Field) → BitVec f.width
  | .status => F.status
  | .channel => F.channel
  | .gain => F.gain
  | .mode => F.mode
  | .dataRate => F.dataRate
  | .compMode => F.compMode
  | .compPolarity => F.compPolarity
  | .compLatch => F.compLatch
  | .compQueue => F.compQueue

/-- `F with {f := v}` (00_scope.md R12). -/
def withField (F : ConfigFields) : (f : Field) → BitVec f.width → ConfigFields
  | .status, v => { F with status := v }
  | .channel, v => { F with channel := v }
  | .gain, v => { F with gain := v }
  | .mode, v => { F with mode := v }
  | .dataRate, v => { F with dataRate := v }
  | .compMode, v => { F with compMode := v }
  | .compPolarity, v => { F with compPolarity := v }
  | .compLatch, v => { F with compLatch := v }
  | .compQueue, v => { F with compQueue := v }

/-- `fields with {status := 1}`: the field set MEASURE writes, whatever status the caller gave (43_measure.md R181). -/
def startFields (F : ConfigFields) : ConfigFields := { F with status := 1 }

/-- `result_decode(w)`: `w[15:4]`, unsigned (41_codec.md R124; 90_conflicts.md C4). -/
def resultDecode (w : Word) : Code := w.extractLsb' 4 12

/-- `threshold_decode(w)`: `w[15:4]`, to be read as two's complement (41_codec.md R125). -/
def thresholdDecode (w : Word) : Code := w.extractLsb' 4 12

/-- `threshold_encode(t)`: `t ++ 4'b0000` (41_codec.md R126). -/
def thresholdEncode (t : Code) : Word := t ++ 0#4

/-- `zext_16` (00_scope.md R9). -/
def zext16 {n : Nat} (v : BitVec n) : Word := v.setWidth 16

/-- `sext_16` (00_scope.md R9). -/
def sext16 {n : Nat} (v : BitVec n) : Word := v.signExtend 16

end Sys2Proof.Machine
end

