-- ==== Sys2Proof/Config.lean ====
section
/-! DEFINITION. The implementation parameters the source leaves open (00_scope.md R7). They are bound when the block is
constructed and never changed (70_reset_and_hazards.md R240), so `Machine.State` holds one record of them and every
statement is about all of them. The free values are the answers of a transport of which nothing is known (10_state.md R30;
log 2): constants without a body, applied to the number of the sequence and the position in it. -/

namespace Sys2Proof

/-- The parameters of 00_scope.md R7. -/
structure Params where
  /-- `STATUS_W`: the width in bits of the transport's status code. -/
  statusW : Nat
  /-- `POLL_LIMIT`: the most poll reads one MEASURE may issue, at least 1, or `none` for no bound. -/
  pollLimit : Option Nat
  /-- `POLL_DELAY`: the wait between two poll reads. No rule reads it. -/
  pollDelay : Nat
  /-- `HANDLE`: the opaque device handle, passed unchanged on every transport call. -/
  handle : Nat
  deriving DecidableEq, Repr

/-- The parameters `Machine.State.reset` is constructed with. `POLL_LIMIT = none` is the spec's default (00_scope.md R7).
DESIGN CHOICE (unsafe, log 7): the other three are OPEN in the spec, and a statement should rest on none of them. -/
def Params.default : Params := { statusW := 8, pollLimit := none, pollDelay := 0, handle := 0 }

/-- FREE VALUE (log 2): whether draw `k` of sequence `stream` is an answer, or the transport never answers that call. -/
opaque Config.drawAnswers (stream k : Nat) : Bool

/-- FREE VALUE (log 2): the status code of draw `k`, `w` bits wide (20_memory.md R51). -/
opaque Config.drawStatus (w stream k : Nat) : BitVec w

/-- FREE VALUE (log 2): the first and the second byte of draw `k`. -/
opaque Config.drawBytes (stream k : Nat) : Byte × Byte

end Sys2Proof
end

