-- ==== Sys2Proof/Machine/State.lean ====
section
/-! DEFINITION. The state of the model: the block's registers (10_state.md R21), the command port (30_encoding.md R80),
the parameters bound at construction (00_scope.md R7), the trace of transport calls and responses (20_memory.md R67),
and the inputs the outside world still has for the block (the caller's later commands, the transport's answers, the
reset pin). The device's registers are not here: they "live entirely on the device" (10_state.md R28, log 18). -/

namespace Sys2Proof.Machine

open Sys2Proof

/-- The sequencer state `st`, which plays the part of a program counter (10_state.md R22). -/
inductive Seq where
  | idle | getRd | setRd | setWr | mReq | mPoll | mReady | thRd | thWr
  deriving DecidableEq, Repr

/-- `rsp_kind` (10_state.md R21; 30_encoding.md R89). -/
inductive RspKind where
  | ok | transportError | timeout
  deriving DecidableEq, Repr

/-- The four device registers (10_state.md R27; 00_scope.md R13). -/
inductive Reg where
  | conversion | config | lowThreshold | highThreshold
  deriving DecidableEq, Repr

/-- The direction of a transport call; a write carries the two bytes in the order sent (20_memory.md R50, R53). -/
inductive Access where
  | read
  | write (b0 b1 : Byte)
  deriving DecidableEq, Repr

/-- A transport call, as the block issues it (20_memory.md R50, R57). -/
structure Call where
  handle : Nat
  reg    : Reg
  access : Access
  /-- The `length` argument, in bytes. -/
  length : Nat
  deriving DecidableEq, Repr

/-- The transport's answer to one call: its status code and, for a read, two bytes (20_memory.md R50, R51). A status
code is a number below `2 ^ STATUS_W` (log 8). No rule reads the bytes of a failed read or of a write. -/
structure Answer where
  status : Nat
  b0     : Byte
  b1     : Byte
  deriving DecidableEq, Repr

/-- A response on the command port, as `complete` gives it (40_sequencer.md R104). A field the command does not name is
`none` (10_state.md R24). -/
structure Response where
  kind   : RspKind
  value  : Word
  fields : Option ConfigFields
  code   : Option Nat
  deriving DecidableEq, Repr

/-- The answers of the transport to the calls still to come, a sequence without end unless it falls silent (10_state.md
R30: "every sequence of answers"; log 2). -/
inductive Answers where
  /-- The transport never answers again (40_sequencer.md R107). -/
  | silent
  /-- The answer `a` to every call still to come. -/
  | forever (a : Answer)
  /-- The free sequence `stream`, from its draw `k` on. -/
  | drawn (stream k : Nat)
  /-- The answer `a` to the next call, and then `rest`. -/
  | next (a : Answer) (rest : Answers)
  deriving DecidableEq, Repr

/-- One event of the trace (20_memory.md R67). -/
inductive Event where
  /-- A call and its answer: the status code and, for a successful read, the two bytes. -/
  | call (c : Call) (status : Nat) (bytes : Option (Byte × Byte))
  /-- A call under way when reset came, whose answer the block never saw (70_reset_and_hazards.md R241). -/
  | cut (c : Call)
  /-- A response. -/
  | response (r : Response)
  deriving DecidableEq, Repr

/-- A command the caller presents: the command word and the `req_fields` record (30_encoding.md R80). -/
structure Request where
  cmd    : Cmd
  fields : ConfigFields
  deriving DecidableEq, Repr

/-- The block's reset input (70_reset_and_hazards.md R240, R241; log 12). -/
inductive ResetPin where
  | released
  /-- Reset comes now. `underWay` says of a busy block whether the call it issues next was already under way. -/
  | asserted (underWay : Bool)
  deriving DecidableEq, Repr

/-- The whole state. A register the spec says "holds no value" is `none` (10_state.md R20, R24, R45; log 1). -/
structure State where
  /-- `st` (10_state.md R22). -/
  st : Seq
  /-- `op_l`, the accepted opcode. -/
  opL : Option (BitVec 8)
  /-- `arg_l`, the accepted argument. -/
  argL : Option Word
  /-- `fin_l`, the caller's field set of MEASURE. -/
  finL : Option ConfigFields
  /-- `w_l`, the word SET_x writes back. -/
  wL : Option Word
  /-- `npoll`, the poll reads that returned status 0 (10_state.md R26). -/
  npoll : Option Nat
  /-- `rsp_valid`. -/
  rspValid : Bool
  /-- `rsp_kind`. -/
  rspKind : Option RspKind
  /-- `rsp_value`. -/
  rspValue : Option Word
  /-- `rsp_fields`. -/
  rspFields : Option ConfigFields
  /-- `rsp_code`. -/
  rspCode : Option Nat
  /-- `refused`, the sticky model mark (10_state.md R25). -/
  refused : Bool
  /-- The reason of the last refusal (40_sequencer.md R105). The model's own field (log 14); no step reads it. -/
  refusalReason : Option RefuseReason
  /-- `req_valid` (30_encoding.md R80). -/
  reqValid : Bool
  /-- `req_cmd`. -/
  reqCmd : Cmd
  /-- `req_fields`. -/
  reqFields : ConfigFields
  /-- The commands the caller has still to present, in order (40_sequencer.md R101; log 4). -/
  callerQueue : List Request
  /-- The transport's answers to the calls still to come (10_state.md R30; log 2). The model's own field. -/
  answers : Answers
  /-- The reset input (log 12). -/
  resetPin : ResetPin
  /-- The parameters and the device handle, bound at construction (00_scope.md R7; 70_reset_and_hazards.md R240). -/
  params : Params
  /-- Every transport call and response so far, oldest first (20_memory.md R67; log 15). -/
  trace : List Event
  deriving DecidableEq, Repr

/-- The reasons a step, or a read of a response register, stops with a fault. -/
inductive Fault where
  /-- A busy block whose transport does not answer is stuck (40_sequencer.md R107). Raised by `memRead` and `memWrite`
  when `answers` has no next one. Safe: it refutes every claim that the command completes (log 3). -/
  | transportSilent
  /-- A latch that holds no value was to be read (10_state.md R20). Raised by `step` and the meanings in a busy state
  whose latches do not fit it. No run from reset reaches such a state. Safe (log 9). -/
  | latchNoValue
  /-- `st` is on no path of the command (40_sequencer.md R103). Raised by the meanings in a busy state whose latched
  command is another one. No run from reset reaches such a state. Safe (log 9). -/
  | strayState
  /-- The caller read a response register that holds no value for it (10_state.md R24; 93_implementation_defined.md row
  12). Raised by the caller's read functions in Machine/Flags.lean, by no step. Safe (log 11). -/
  | responseNoValue
  deriving DecidableEq, Repr

/-- The reasons a step is refused by the model. Every command of the table has its meaning, and the spec's own refusal
is a next state with the mark `refused` (40_sequencer.md R105), so no step raises one. -/
inductive Refusal where
  /-- A command with no meaning yet. Raised by `exec` only. Safe: it stops where the hardware goes on. -/
  | notModelled (mnemonic : String)
  deriving DecidableEq, Repr

/-- What a step answers. -/
abbrev Result := Host.Outcome State Fault Refusal

/-- The machine right after reset, which is construction (10_state.md R45; 70_reset_and_hazards.md R240): waiting in
`IDLE`, no response, no latch with a value, nothing presented, nothing recorded, every answer still to come free (log 2).
DESIGN CHOICE (unsafe, log 4 and log 7): the values on the port's lines and three of the parameters. -/
def State.reset : State where
  st := .idle
  opL := none
  argL := none
  finL := none
  wL := none
  npoll := none
  rspValid := false
  rspKind := none
  rspValue := none
  rspFields := none
  rspCode := none
  refused := false
  refusalReason := none
  reqValid := false
  reqCmd := 0
  reqFields :=
    { status := 0, channel := 0, gain := 0, mode := 0, dataRate := 0, compMode := 0, compPolarity := 0,
      compLatch := 0, compQueue := 0 }
  callerQueue := []
  answers := .drawn 0 0
  resetPin := .released
  params := Params.default
  trace := []

end Sys2Proof.Machine
end

