-- ==== Sys2Proof/Machine/Device.lean ====
section
/-! DEFINITION. What the spec says of the device behind the transport (10_state.md R27, R32 to R44; 20_memory.md R59):
the register ids, the named field values and the reset facts. The block's step uses the ids only: it "gives them no
meaning" (00_scope.md R4) and reads no reset value (10_state.md R43). -/

namespace Sys2Proof.Machine

open Sys2Proof

/-- The 2-bit register id (10_state.md R27). -/
def Reg.id : Reg → BitVec 2
  | .conversion => 0
  | .config => 1
  | .lowThreshold => 2
  | .highThreshold => 3

/-- The registers the block writes: "never" the conversion register (10_state.md R27; 20_memory.md R59). -/
def Reg.writable : Reg → Bool
  | .conversion => false
  | .config => true
  | .lowThreshold => true
  | .highThreshold => true

/-- The register of a threshold command, `r = 2 + op_l[1]` (44_threshold.md, before R200). -/
def thresholdReg (op : BitVec 8) : Reg := if op.getLsbD 1 then .highThreshold else .lowThreshold

/-- Gain values 0 to 5 are meaningful; 6 and 7 are "undefined by the chip" (10_state.md R34). -/
def gainMeaningful (F : ConfigFields) : Bool := F.gain.toNat ≤ 5

/-- Channel 0 is a differential input (10_state.md R33). DESIGN CHOICE (log 24): `false` for the channels 1 to 7, of which
the spec does not say whether they are differential; there it says only "not stated to be differential". -/
def channelDifferential (F : ConfigFields) : Bool := F.channel = 0

/-- Mode 1 is single-shot, 0 continuous (10_state.md R35). -/
def singleShot (F : ConfigFields) : Bool := F.mode = 1

/-- Comparator mode 0 is traditional, 1 window (10_state.md R37). -/
def windowComparator (F : ConfigFields) : Bool := F.compMode = 1

/-- Comparator queue 3 is "disabled" (10_state.md R40). DESIGN CHOICE (log 24): `false` for the values 0 to 2, whose
meaning the spec does not give; there it says only "not stated to be disabled". -/
def comparatorDisabled (F : ConfigFields) : Bool := F.compQueue = 3

/-- The field values the device's configuration register resets to (10_state.md R43). -/
def deviceResetFields : ConfigFields where
  status := 1
  channel := 0
  gain := 2
  mode := 1
  dataRate := 4
  compMode := 0
  compPolarity := 0
  compLatch := 0
  compQueue := 3

/-- The reset value of a device register where the spec gives one (10_state.md R43, R44). -/
def deviceResetWord : Reg → Option Word
  | .conversion => none
  | .config => some 0x8583
  | .lowThreshold => none
  | .highThreshold => none

end Sys2Proof.Machine
end

