-- ==== Sys2Proof/Machine/Flags.lean ====
section
/-! DEFINITION. The flags of the block (10_state.md R46): `busy`, the status bit of a configuration word, the number of
`rsp_kind`, and the caller's reads of the response registers (10_state.md R24). No command computes a condition code. -/

namespace Sys2Proof.Machine

open Sys2Proof

/-- `busy`, 1 exactly when `st ≠ IDLE` (30_encoding.md R80). -/
def State.busy (s : State) : Bool := s.st ≠ .idle

/-- A command has ended: it completed or it was refused (40_sequencer.md R108). -/
def State.commandEnded (s : State) : Bool := s.rspValid || s.refused

/-- A run has ended: `IDLE`, and the caller presents no further command (40_sequencer.md R108). -/
def State.runEnded (s : State) : Bool := s.st = .idle && !s.reqValid && s.callerQueue.isEmpty

/-- Bit 15 of a configuration word read: 1 means "conversion complete" (10_state.md R32; 43_measure.md R182). -/
def conversionComplete (w : Word) : Bool := w.getLsbD 15

/-- The number of an `rsp_kind` (30_encoding.md R89). -/
def RspKind.number : RspKind → BitVec 2
  | .ok => 0
  | .transportError => 1
  | .timeout => 2

/-- The caller's read of a response register: the value it holds while a response is present, else the fault of a read
of no value (10_state.md R24; 93_implementation_defined.md row 12; log 11). -/
def readResponse {α : Type} (s : State) (reg : Option α) : Except Fault α :=
  if s.rspValid then
    match reg with
    | some v => .ok v
    | none => .error .responseNoValue
  else .error .responseNoValue

/-- The caller's read of `rsp_kind`. -/
def State.readKind (s : State) : Except Fault RspKind := readResponse s s.rspKind

/-- The caller's read of `rsp_value`. -/
def State.readValue (s : State) : Except Fault Word := readResponse s s.rspValue

/-- The caller's read of `rsp_fields`, which only CFG_DECODE names (10_state.md R24). -/
def State.readFields (s : State) : Except Fault ConfigFields := readResponse s s.rspFields

/-- The caller's read of `rsp_code`, which only an error names (10_state.md R24). -/
def State.readCode (s : State) : Except Fault Nat := readResponse s s.rspCode

end Sys2Proof.Machine
end

