-- ==== Sys2Proof/Machine/Ops.lean ====
section
/-! DEFINITION. The operations the commands share: the accept step (40_sequencer.md R102), `complete` and `refuse`
(R104, R105), a transport call and its answer (R106), the abort a failing call takes (60_exceptions.md R225) and the
block reset (70_reset_and_hazards.md R240, R241). There is no return from an abort to model (60_exceptions.md R226). -/

namespace Sys2Proof.Machine

open Sys2Proof

/-- The command of the latches, `op_l` and `arg_l` decoded again (40_sequencer.md R102, R106). -/
def latchedInstr (s : State) : Option Instr :=
  match s.opL, s.argL with
  | some op, some arg =>
    match decodeParts op arg with
    | .command i => some i
    | .refuse _ => none
  | _, _ => none

/-- The accept step takes the presented command, and `rsp_valid <- 0` (40_sequencer.md R101, R102). -/
def takeRequest (s : State) : State := { s with reqValid := false, rspValid := false }

/-- The accept step of a command that uses the transport: `op_l` and `arg_l` are latched and `st` becomes the command's
first busy state (40_sequencer.md R102, R103). The word latched is the command's own, which in an accept step is
`req_cmd` (log 16). -/
def accept (i : Instr) (first : Seq) (s : State) : State :=
  { takeRequest s with opL := some (opcode i), argL := some i.argument, st := first }

/-- One more event of the trace (20_memory.md R67). -/
def record (e : Event) (s : State) : State := { s with trace := s.trace ++ [e] }

/-- `complete(kind, value, fields, code)` (40_sequencer.md R104). The response fields the command does not name hold no
value (10_state.md R24), nor does any latch afterwards (10_state.md R20). -/
def complete (kind : RspKind) (value : Word) (fields : Option ConfigFields) (code : Nat) (s : State) : State :=
  let code := if kind = .ok then none else some code
  { record (.response { kind, value, fields, code }) s with
    st := .idle
    opL := none
    argL := none
    finL := none
    wL := none
    npoll := none
    rspValid := true
    rspKind := some kind
    rspValue := some value
    rspFields := fields
    rspCode := code }

/-- `complete(OK, value, -, -)`. -/
def completeOk (value : Word) (s : State) : State := complete .ok value none 0 s

/-- `raise TransportError(s)`: the one shared abort of a failing transport call (00_scope.md R11; 60_exceptions.md R221,
R225). -/
def abort (status : Nat) (s : State) : State := complete .transportError 0x0000 none status s

/-- `raise Timeout()` (00_scope.md R11; 60_exceptions.md R222). -/
def timeout (s : State) : State := complete .timeout 0x0000 none 0 s

/-- `refuse(reason)` in the accept step (40_sequencer.md R102, R105): the mark is set, no call is made, no response is
written and `st` stays `IDLE`. -/
def refuse (reason : RefuseReason) (s : State) : State :=
  { takeRequest s with refused := true, refusalReason := some reason }

/-- `MemRead(r, 2)` as a call of the block (20_memory.md R50, R52, R57). -/
def readCall (r : Reg) (s : State) : Call :=
  { handle := s.params.handle, reg := r, access := .read, length := 2 }

/-- `MemWrite(r, 2, v)` as a call of the block: both bytes, the high one first (20_memory.md R52, R53, R57). -/
def writeCall (r : Reg) (v : Word) (s : State) : Call :=
  { handle := s.params.handle, reg := r, access := .write (firstByte v) (secondByte v), length := 2 }

/-- The event of a call answered by `a`: a read that succeeds returns two bytes, nothing else does (20_memory.md R54,
R67; log 19). -/
def callEvent (c : Call) (a : Answer) : Event :=
  match c.access with
  | .read => .call c a.status (if a.status = 0 then some (a.b0, a.b1) else none)
  | .write _ _ => .call c a.status none

/-- The answer to the next call and the answers after it, or none where the transport does not answer (10_state.md R30;
20_memory.md R51; log 2). `w` is `STATUS_W`. -/
def Answers.draw (w : Nat) : Answers → Option (Answer × Answers)
  | .silent => none
  | .forever a => some (a, .forever a)
  | .drawn stream k =>
    if Config.drawAnswers stream k then
      some ({ status := (Config.drawStatus w stream k).toNat, b0 := (Config.drawBytes stream k).1,
              b1 := (Config.drawBytes stream k).2 }, .drawn stream (k + 1))
    else none
  | .next a rest => some (a, rest)

/-- The answer to the block's next call and the answers after it, if the transport answers it. -/
def State.draw (s : State) : Option (Answer × Answers) := s.answers.draw s.params.statusW

/-- The state after the transport answered call `c` with `a`, `rest` being the answers still to come. -/
def answered (c : Call) (a : Answer) (rest : Answers) (s : State) : State :=
  { record (callEvent c a) s with answers := rest }

/-- A transaction step that reads register `r`: the status is tested first, and `k` goes on with the word of a read that
succeeded (40_sequencer.md R106, R107; 20_memory.md R53, R54; 60_exceptions.md R224). -/
def memRead (r : Reg) (k : Word → State → Result) (s : State) : Result :=
  match s.draw with
  | none => .fault .transportSilent
  | some (a, rest) =>
    let s' := answered (readCall r s) a rest s
    if a.status = 0 then k (wordOfBytes a.b0 a.b1) s' else .next (abort a.status s')

/-- A transaction step that writes `v` to register `r`; `k` goes on after a write that succeeded (40_sequencer.md R106,
R107). -/
def memWrite (r : Reg) (v : Word) (k : State → Result) (s : State) : Result :=
  match s.draw with
  | none => .fault .transportSilent
  | some (a, rest) =>
    let s' := answered (writeCall r v s) a rest s
    if a.status = 0 then k s' else .next (abort a.status s')

/-- The transport call that `st` names (10_state.md R22); none in `IDLE`, nor where the latch it needs holds no value. -/
def namedCall (s : State) : Option Call :=
  match s.st with
  | .idle => none
  | .getRd => some (readCall .config s)
  | .setRd => some (readCall .config s)
  | .setWr => s.wL.map fun w => writeCall .config w s
  | .mReq => s.finL.map fun F => writeCall .config (encodeConfig (startFields F)) s
  | .mPoll => some (readCall .config s)
  | .mReady => some (readCall .conversion s)
  | .thRd => s.opL.map fun op => readCall (thresholdReg op) s
  | .thWr =>
    match s.opL, s.argL with
    | some op, some arg => some (writeCall (thresholdReg op) (thresholdEncode (thresholdOperand arg)) s)
    | _, _ => none

/-- The event a reset leaves: the named call, if the reset found it under way (70_reset_and_hazards.md R241). -/
def cutEvents (underWay : Bool) (s : State) : List Event :=
  match underWay, namedCall s with
  | true, some c => [.cut c]
  | _, _ => []

/-- Block reset: `st = IDLE`, `rsp_valid = 0`, every other register of the block without a value, `refused` and the
parameters kept, no transport call issued (70_reset_and_hazards.md R240, R241). The port, the caller's queue, the
answers to come and the trace are the environment's and stay (log 13). -/
def blockReset (underWay : Bool) (s : State) : State :=
  { s with
    st := .idle
    opL := none
    argL := none
    finL := none
    wL := none
    npoll := none
    rspValid := false
    rspKind := none
    rspValue := none
    rspFields := none
    rspCode := none
    resetPin := .released
    trace := s.trace ++ cutEvents underWay s }

/-- The caller's move while the block waits in `IDLE` with nothing presented: it presents its next command, if it has
one. With none the block "waits, and this is not a fault" (40_sequencer.md R100, R101; log 4 and log 6). -/
def callerMove (s : State) : State :=
  match s.callerQueue with
  | [] => s
  | r :: rest => { s with reqValid := true, reqCmd := r.cmd, reqFields := r.fields, callerQueue := rest }

end Sys2Proof.Machine
end

