-- ==== Sys2Proof/Machine/ConfigAccess.lean ====
section
/-! DEFINITION. GET_x and SET_x, the configuration field access commands (42_config_access.md R140 to R161). -/

namespace Sys2Proof.Machine

open Sys2Proof

/-- The GET_x procedure for field `f`: accept, then one read of register 1 whose field is the response
(42_config_access.md R140). -/
def getField (f : Field) (ignored : Word) (s : State) : Result :=
  match s.st with
  | .idle => .next (accept (getInstr f ignored) .getRd s)
  | .getRd => memRead .config (fun cur s => .next (completeOk (zext16 (fieldGet cur f)) s)) s
  | _ => .fault .strayState

/-- `SET_RD` after a read that succeeded: no write if the field already holds `v`, else the word just read with the
field replaced goes to `w_l` (42_config_access.md R141). -/
def setRead (f : Field) (v : BitVec f.width) (cur : Word) (s : State) : Result :=
  if fieldGet cur f = v then .next (completeOk 0x0000 s)
  else .next { s with wL := some (fieldSet cur f v), st := .setWr }

/-- The SET_x procedure for field `f`: accept or refuse, one read of register 1, and one write of register 1 if the
field changes (42_config_access.md R141, R142). -/
def setField (f : Field) (arg : Word) (s : State) : Result :=
  match s.st with
  | .idle =>
    if argFits f arg then .next (accept (setInstr f arg) .setRd s) else .next (refuse .argOutOfField s)
  | .setRd => memRead .config (setRead f (fieldOperand f arg)) s
  | .setWr =>
    match s.wL with
    | some w => memWrite .config w (fun s => .next (completeOk 0x0000 s)) s
    | none => .fault .latchNoValue
  | _ => .fault .strayState

/-- GET_STATUS (42_config_access.md R143). -/
def execGetStatus (ignored : Word) (s : State) : Result := getField .status ignored s

/-- GET_CHANNEL (42_config_access.md R145). -/
def execGetChannel (ignored : Word) (s : State) : Result := getField .channel ignored s

/-- GET_GAIN (42_config_access.md R147). -/
def execGetGain (ignored : Word) (s : State) : Result := getField .gain ignored s

/-- GET_MODE (42_config_access.md R149). -/
def execGetMode (ignored : Word) (s : State) : Result := getField .mode ignored s

/-- GET_DATA_RATE (42_config_access.md R151). -/
def execGetDataRate (ignored : Word) (s : State) : Result := getField .dataRate ignored s

/-- GET_COMP_MODE (42_config_access.md R153). -/
def execGetCompMode (ignored : Word) (s : State) : Result := getField .compMode ignored s

/-- GET_COMP_POLARITY (42_config_access.md R155). -/
def execGetCompPolarity (ignored : Word) (s : State) : Result := getField .compPolarity ignored s

/-- GET_COMP_LATCH (42_config_access.md R157). -/
def execGetCompLatch (ignored : Word) (s : State) : Result := getField .compLatch ignored s

/-- GET_COMP_QUEUE (42_config_access.md R159). -/
def execGetCompQueue (ignored : Word) (s : State) : Result := getField .compQueue ignored s

/-- SET_STATUS (42_config_access.md R144): the compare is between the bit read and the bit to write. -/
def execSetStatus (arg : Word) (s : State) : Result := setField .status arg s

/-- SET_CHANNEL (42_config_access.md R146). -/
def execSetChannel (arg : Word) (s : State) : Result := setField .channel arg s

/-- SET_GAIN (42_config_access.md R148): values 6 and 7 are written bit for bit. -/
def execSetGain (arg : Word) (s : State) : Result := setField .gain arg s

/-- SET_MODE (42_config_access.md R150). -/
def execSetMode (arg : Word) (s : State) : Result := setField .mode arg s

/-- SET_DATA_RATE (42_config_access.md R152). -/
def execSetDataRate (arg : Word) (s : State) : Result := setField .dataRate arg s

/-- SET_COMP_MODE (42_config_access.md R154). -/
def execSetCompMode (arg : Word) (s : State) : Result := setField .compMode arg s

/-- SET_COMP_POLARITY (42_config_access.md R156). -/
def execSetCompPolarity (arg : Word) (s : State) : Result := setField .compPolarity arg s

/-- SET_COMP_LATCH (42_config_access.md R158). -/
def execSetCompLatch (arg : Word) (s : State) : Result := setField .compLatch arg s

/-- SET_COMP_QUEUE (42_config_access.md R160). -/
def execSetCompQueue (arg : Word) (s : State) : Result := setField .compQueue arg s

end Sys2Proof.Machine
end

