-- ==== Sys2Proof/Machine/Measure.lean ====
section
/-! DEFINITION. MEASURE, the conversion-polling FSM (43_measure.md R180 to R187). -/

namespace Sys2Proof.Machine

open Sys2Proof

/-- MEASURE's accept step also latches the caller's field set (40_sequencer.md R102; 43_measure.md R180). -/
def measureAccept (ignored : Word) (s : State) : State :=
  { accept (.measure ignored) .mReq s with finL := some s.reqFields }

/-- `M_REQ` after a write that succeeded: `npoll <- 0` and polling begins (43_measure.md R181). -/
def measureStarted (s : State) : Result := .next { s with npoll := some 0, st := .mPoll }

/-- `POLL_LIMIT = some n and npoll >= n` (43_measure.md R182). -/
def pollLimitReached (limit : Option Nat) (npoll : Nat) : Bool :=
  match limit with
  | none => false
  | some n => n ≤ npoll

/-- `M_POLL` after a read that succeeded: bit 15 = 1 ends the polling; else the poll is counted, and the limit, if there
is one and it is reached, ends the command (43_measure.md R182; 60_exceptions.md R222, R224). -/
def measurePolled (n : Nat) (cur : Word) (s : State) : Result :=
  if conversionComplete cur then .next { s with st := .mReady }
  else if pollLimitReached s.params.pollLimit (n + 1) then .next (timeout { s with npoll := some (n + 1) })
  else .next { s with npoll := some (n + 1) }

/-- `M_READY` after a read that succeeded: the 12-bit result, unsigned (43_measure.md R183). -/
def measureResult (w : Word) (s : State) : Result := .next (completeOk (zext16 (resultDecode w)) s)

/-- MEASURE (43_measure.md R180): accept; the unconditional start write with bit 15 forced to 1 (R181); the poll reads
(R182); the read of the conversion register (R183). -/
def execMeasure (ignored : Word) (s : State) : Result :=
  match s.st with
  | .idle => .next (measureAccept ignored s)
  | .mReq =>
    match s.finL with
    | some F => memWrite .config (encodeConfig (startFields F)) measureStarted s
    | none => .fault .latchNoValue
  | .mPoll =>
    match s.npoll with
    | some n => memRead .config (measurePolled n) s
    | none => .fault .latchNoValue
  | .mReady => memRead .conversion measureResult s
  | _ => .fault .strayState

end Sys2Proof.Machine
end

