-- ==== Sys2Proof/Machine/PureCodec.lean ====
section
/-! DEFINITION. The pure codec commands (41_codec.md R127 to R131). Each completes in its accept step and makes no
transport call, so it has no busy state. -/

namespace Sys2Proof.Machine

open Sys2Proof

/-- The accept step of a pure command, which completes OK at once (40_sequencer.md R102). -/
def pureComplete (value : Word) (fields : Option ConfigFields) (s : State) : Result :=
  match s.st with
  | .idle => .next (complete .ok value fields 0 (takeRequest s))
  | _ => .fault .strayState

/-- CFG_ENCODE (41_codec.md R127). -/
def execCfgEncode (_ignored : Word) (s : State) : Result := pureComplete (encodeConfig s.reqFields) none s

/-- CFG_DECODE (41_codec.md R128). -/
def execCfgDecode (word : Word) (s : State) : Result := pureComplete 0x0000 (some (decodeConfig word)) s

/-- TH_ENCODE (41_codec.md R129): a value out of range is refused. -/
def execThEncode (arg : Word) (s : State) : Result :=
  match s.st with
  | .idle =>
    if thresholdFits arg then pureComplete (thresholdEncode (thresholdOperand arg)) none s
    else .next (refuse .thresholdOutOfRange s)
  | _ => .fault .strayState

/-- TH_DECODE (41_codec.md R130). -/
def execThDecode (word : Word) (s : State) : Result := pureComplete (sext16 (thresholdDecode word)) none s

/-- RES_DECODE (41_codec.md R131). -/
def execResDecode (word : Word) (s : State) : Result := pureComplete (zext16 (resultDecode word)) none s

end Sys2Proof.Machine
end

