-- ==== Sys2Proof/Machine/Threshold.lean ====
section
/-! DEFINITION. The threshold register commands (44_threshold.md R200 to R205). Each makes exactly one transport call. -/

namespace Sys2Proof.Machine

open Sys2Proof

/-- `TH_RD`: one read of the command's register, whose 12-bit value is sign-extended (44_threshold.md R200, R202). -/
def getThreshold (i : Instr) (s : State) : Result :=
  match s.st with
  | .idle => .next (accept i .thRd s)
  | .thRd =>
    memRead (thresholdReg (opcode i)) (fun w s => .next (completeOk (sext16 (thresholdDecode w)) s)) s
  | _ => .fault .strayState

/-- `TH_WR`: one unconditional write of the left-justified value; a value out of range is refused in the accept step
(44_threshold.md R201, R203, R204). -/
def setThreshold (i : Instr) (s : State) : Result :=
  match s.st with
  | .idle =>
    if thresholdFits i.argument then .next (accept i .thWr s) else .next (refuse .thresholdOutOfRange s)
  | .thWr =>
    memWrite (thresholdReg (opcode i)) (thresholdEncode (thresholdOperand i.argument))
      (fun s => .next (completeOk 0x0000 s)) s
  | _ => .fault .strayState

/-- GET_LO_THRESH (44_threshold.md R200). -/
def execGetLoThresh (ignored : Word) (s : State) : Result := getThreshold (.getLoThresh ignored) s

/-- SET_LO_THRESH (44_threshold.md R201). -/
def execSetLoThresh (arg : Word) (s : State) : Result := setThreshold (.setLoThresh arg) s

/-- GET_HI_THRESH (44_threshold.md R202). -/
def execGetHiThresh (ignored : Word) (s : State) : Result := getThreshold (.getHiThresh ignored) s

/-- SET_HI_THRESH (44_threshold.md R203). -/
def execSetHiThresh (arg : Word) (s : State) : Result := setThreshold (.setHiThresh arg) s

end Sys2Proof.Machine
end

