-- ==== Sys2Proof/Machine/Dispatch.lean ====
section
/-! DEFINITION. One arm per command: its meaning, which spans the accept step and every transaction step of the command
(40_sequencer.md R100; log 9). -/

namespace Sys2Proof.Machine

open Sys2Proof

/-- The step of command `i` in state `s`: the accept step in `IDLE`, else the transaction of the busy state. -/
def exec (i : Instr) (s : State) : Host.Outcome State Fault Refusal :=
  match i with
  | .getStatus a => Sys2Proof.Machine.execGetStatus a s
  | .getChannel a => Sys2Proof.Machine.execGetChannel a s
  | .getGain a => Sys2Proof.Machine.execGetGain a s
  | .getMode a => Sys2Proof.Machine.execGetMode a s
  | .getDataRate a => Sys2Proof.Machine.execGetDataRate a s
  | .getCompMode a => Sys2Proof.Machine.execGetCompMode a s
  | .getCompPolarity a => Sys2Proof.Machine.execGetCompPolarity a s
  | .getCompLatch a => Sys2Proof.Machine.execGetCompLatch a s
  | .getCompQueue a => Sys2Proof.Machine.execGetCompQueue a s
  | .setStatus a => Sys2Proof.Machine.execSetStatus a s
  | .setChannel a => Sys2Proof.Machine.execSetChannel a s
  | .setGain a => Sys2Proof.Machine.execSetGain a s
  | .setMode a => Sys2Proof.Machine.execSetMode a s
  | .setDataRate a => Sys2Proof.Machine.execSetDataRate a s
  | .setCompMode a => Sys2Proof.Machine.execSetCompMode a s
  | .setCompPolarity a => Sys2Proof.Machine.execSetCompPolarity a s
  | .setCompLatch a => Sys2Proof.Machine.execSetCompLatch a s
  | .setCompQueue a => Sys2Proof.Machine.execSetCompQueue a s
  | .measure a => Sys2Proof.Machine.execMeasure a s
  | .getLoThresh a => Sys2Proof.Machine.execGetLoThresh a s
  | .setLoThresh a => Sys2Proof.Machine.execSetLoThresh a s
  | .getHiThresh a => Sys2Proof.Machine.execGetHiThresh a s
  | .setHiThresh a => Sys2Proof.Machine.execSetHiThresh a s
  | .cfgEncode a => Sys2Proof.Machine.execCfgEncode a s
  | .cfgDecode a => Sys2Proof.Machine.execCfgDecode a s
  | .thEncode a => Sys2Proof.Machine.execThEncode a s
  | .thDecode a => Sys2Proof.Machine.execThDecode a s
  | .resDecode a => Sys2Proof.Machine.execResDecode a s

end Sys2Proof.Machine
end

