-- ==== Sys2Proof/Machine/Step.lean ====
section
/-! DEFINITION. One step of the model (40_sequencer.md R100): a reset if one comes, the transaction of a busy state, the
accept of a presented command, or the caller's move. -/

namespace Sys2Proof.Machine

open Sys2Proof

/-- The accept step of the presented command word, refused or run (40_sequencer.md R102). -/
def acceptStep (s : State) : Host.Outcome State Fault Refusal :=
  match decode s.reqCmd with
  | .command i => exec i s
  | .refuse reason => .next (refuse reason s)

/-- The transaction step of the latched command (40_sequencer.md R106). -/
def transactionStep (s : State) : Host.Outcome State Fault Refusal :=
  match latchedInstr s with
  | some i => exec i s
  | none => .fault .latchNoValue

/-- One step. A reset has priority (log 12). -/
def step (s : State) : Host.Outcome State Fault Refusal :=
  match s.resetPin with
  | .asserted underWay => .next (blockReset underWay s)
  | .released =>
    if s.busy then transactionStep s
    else if s.reqValid then acceptStep s
    else .next (callerMove s)

/-- `s` with the command word `w` presented on the command port of an idle block, so that the very next step accepts it
(log 5). Commands are not fetched from memory (20_memory.md R66). -/
def State.withFetchWord (s : State) (_nbits w : Nat) : State :=
  { s with
    st := .idle
    opL := none
    argL := none
    finL := none
    wL := none
    npoll := none
    resetPin := .released
    reqValid := true
    reqCmd := BitVec.ofNat 24 w }

end Sys2Proof.Machine
end

