-- ==== Sys2Proof/Machine/Assembler.lean ====
section
/-! DEFINITION. The assembler lines and pseudo-instructions (30_encoding.md R90, R91), from the line's parts to the
commands the caller presents. The characters of a line are in Machine/AsmText.lean. -/

namespace Sys2Proof.Machine

open Sys2Proof

/-- One line of R90, and the three pseudo-instructions of R91. -/
inductive AsmLine where
  | get (f : Field)
  | set (f : Field) (value : Nat)
  | measure (fields : ConfigFields)
  | getThLo
  | getThHi
  | setThLo (value : Int)
  | setThHi (value : Int)
  | cfgEncode (fields : ConfigFields)
  | cfgDecode (word : Word)
  | thEncode (value : Int)
  | thDecode (word : Word)
  | resDecode (word : Word)
  -- pseudo-instructions (30_encoding.md R91)
  | measureW (word : Word)
  | setTh (lo hi : Int)
  | cfgEncodeW (word : Word)
  deriving DecidableEq, Repr

/-- The `arg` of a threshold operand, which must lie in −2048..2047 (30_encoding.md R90). -/
def asmSigned (v : Int) : Option Word := if -2048 ≤ v ∧ v ≤ 2047 then some (BitVec.ofInt 16 v) else none

/-- The `arg` of a field value, which "must fit the field" (30_encoding.md R90). -/
def asmValue (f : Field) (v : Nat) : Option Word := if v < 2 ^ f.width then some (BitVec.ofNat 16 v) else none

/-- The commands of a line, or `none` where an operand does not fit. An ignored `arg` assembles to 0. `port` is what
stands on the `req_fields` lines of a command that does not read them (30_encoding.md R80, R90, R91). -/
def assemble (port : ConfigFields) : AsmLine → Option (List Request)
  | .get f => some [⟨encode (getInstr f 0), port⟩]
  | .set f v => (asmValue f v).map fun a => [⟨encode (setInstr f a), port⟩]
  | .measure F => some [⟨encode (.measure 0), F⟩]
  | .getThLo => some [⟨encode (.getLoThresh 0), port⟩]
  | .getThHi => some [⟨encode (.getHiThresh 0), port⟩]
  | .setThLo v => (asmSigned v).map fun a => [⟨encode (.setLoThresh a), port⟩]
  | .setThHi v => (asmSigned v).map fun a => [⟨encode (.setHiThresh a), port⟩]
  | .cfgEncode F => some [⟨encode (.cfgEncode 0), F⟩]
  | .cfgDecode w => some [⟨encode (.cfgDecode w), port⟩]
  | .thEncode v => (asmSigned v).map fun a => [⟨encode (.thEncode a), port⟩]
  | .thDecode w => some [⟨encode (.thDecode w), port⟩]
  | .resDecode w => some [⟨encode (.resDecode w), port⟩]
  | .measureW w => some [⟨encode (.measure 0), decodeConfig w⟩]
  | .setTh lo hi =>
    (asmSigned lo).bind fun a => (asmSigned hi).map fun b =>
      [⟨encode (.setLoThresh a), port⟩, ⟨encode (.setHiThresh b), port⟩]
  | .cfgEncodeW w => some [⟨encode (.cfgEncode 0), decodeConfig w⟩]

end Sys2Proof.Machine
end

