-- ==== Sys2Proof/Machine/AsmText.lean ====
section
/-! DEFINITION. The characters of an assembler line (30_encoding.md R90, R91): one command on a line, `;` starting a
comment. What the rules leave open of the notation is said in log 23. -/

namespace Sys2Proof.Machine

open Sys2Proof

/-- A piece of a line: a mark, or a run of other characters. -/
inductive Tok where
  | hash | comma | equals | opening | closing
  | word (cs : List Char)
  deriving DecidableEq, Repr

/-- The five marks of the syntax. The two braces are written by their code points. -/
def asmMark (c : Char) : Option Tok :=
  if c = '#' then some .hash
  else if c = ',' then some .comma
  else if c = '=' then some .equals
  else if c = Char.ofNat 0x7B then some .opening
  else if c = Char.ofNat 0x7D then some .closing
  else none

/-- A finished run of characters, read in reverse; an empty run is no piece. -/
def asmRun (run : List Char) : List Tok := if run = [] then [] else [.word run.reverse]

/-- The pieces of a line up to its comment; `run` is the run being read, in reverse. -/
def asmTokens (run : List Char) : List Char → List Tok
  | [] => asmRun run
  | c :: cs =>
    if c = ';' then asmRun run
    else if c.isWhitespace then asmRun run ++ asmTokens [] cs
    else
      match asmMark c with
      | some t => asmRun run ++ t :: asmTokens [] cs
      | none => asmTokens (c :: run) cs

/-- The value of a digit in base 16. -/
def asmDigit (c : Char) : Option Nat :=
  if '0' ≤ c ∧ c ≤ '9' then some (c.toNat - 0x30)
  else if 'a' ≤ c ∧ c ≤ 'f' then some (c.toNat - 0x57)
  else if 'A' ≤ c ∧ c ≤ 'F' then some (c.toNat - 0x37)
  else none

/-- The number that digits of base `b` write after `acc`. -/
def asmDigits (b acc : Nat) : List Char → Option Nat
  | [] => some acc
  | c :: cs =>
    match asmDigit c with
    | some d => if d < b then asmDigits b (acc * b + d) cs else none
    | none => none

/-- An unsigned number: decimal, or hexadecimal after `0x` (30_encoding.md R90). -/
def asmNat : List Char → Option Nat
  | [] => none
  | ['0', 'x'] => none
  | '0' :: 'x' :: cs => asmDigits 16 0 cs
  | cs => asmDigits 10 0 cs

/-- A signed decimal number (30_encoding.md R90). -/
def asmInt : List Char → Option Int
  | [] => none
  | ['-'] => none
  | '-' :: cs => (asmDigits 10 0 cs).map fun n => -(n : Int)
  | cs => (asmDigits 10 0 cs).map fun n => (n : Int)

/-- A wire word, which must fit 16 bits. -/
def asmWord (cs : List Char) : Option Word :=
  (asmNat cs).bind fun n => if n < 2 ^ 16 then some (BitVec.ofNat 16 n) else none

/-- The name of a field (30_encoding.md R90). -/
def Field.text : Field → String
  | .status => "status"
  | .channel => "channel"
  | .gain => "gain"
  | .mode => "mode"
  | .dataRate => "data_rate"
  | .compMode => "comp_mode"
  | .compPolarity => "comp_polarity"
  | .compLatch => "comp_latch"
  | .compQueue => "comp_queue"

/-- The nine fields, in index order. -/
def Field.all : List Field :=
  [.status, .channel, .gain, .mode, .dataRate, .compMode, .compPolarity, .compLatch, .compQueue]

/-- The field of a name. -/
def asmField (cs : List Char) : Option Field := Field.all.find? fun f => (Field.text f).toList = cs

/-- The field that follows a prefix of a mnemonic, as in `GET.gain`. -/
def asmFieldAfter (pre : String) (cs : List Char) : Option Field :=
  if pre.toList.isPrefixOf cs then asmField (cs.drop pre.toList.length) else none

/-- The assignments between the braces of a field list, in order. -/
def asmAssignments : List Tok → Option (List (Field × Nat))
  | [.word f, .equals, .word v, .closing] =>
    (asmField f).bind fun f => (asmNat v).map fun v => [(f, v)]
  | .word f :: .equals :: .word v :: .comma :: rest =>
    (asmField f).bind fun f => (asmNat v).bind fun v => (asmAssignments rest).map fun l => (f, v) :: l
  | _ => none

/-- The record with one field set. -/
def asmAssign (F : ConfigFields) (p : Field × Nat) : ConfigFields := withField F p.1 (BitVec.ofNat p.1.width p.2)

/-- A field list: "all nine fields named, each once", each value fitting its field (30_encoding.md R90). -/
def asmFields (ts : List Tok) : Option ConfigFields :=
  (asmAssignments ts).bind fun l =>
    if (Field.all.all fun f => (l.filter fun p => p.1 = f).length = 1) && (l.all fun p => p.2 < 2 ^ p.1.width) then
      some (l.foldl asmAssign (decodeConfig 0))
    else none

/-- The line of a mnemonic without operands. -/
def asmPlain (m : List Char) : Option AsmLine :=
  if m = "GETTH.LO".toList then some .getThLo
  else if m = "GETTH.HI".toList then some .getThHi
  else (asmFieldAfter "GET." m).map .get

/-- The line of a mnemonic with one `#` operand. -/
def asmImmediate (m v : List Char) : Option AsmLine :=
  if m = "SETTH.LO".toList then (asmInt v).map .setThLo
  else if m = "SETTH.HI".toList then (asmInt v).map .setThHi
  else if m = "CFG.DECODE".toList then (asmWord v).map .cfgDecode
  else if m = "TH.ENCODE".toList then (asmInt v).map .thEncode
  else if m = "TH.DECODE".toList then (asmWord v).map .thDecode
  else if m = "RES.DECODE".toList then (asmWord v).map .resDecode
  else if m = "MEASURE.W".toList then (asmWord v).map .measureW
  else if m = "CFG.ENCODE.W".toList then (asmWord v).map .cfgEncodeW
  else (asmFieldAfter "SET." m).bind fun f => (asmNat v).map (.set f)

/-- The line of the pieces (30_encoding.md R90, R91). -/
def asmLine : List Tok → Option AsmLine
  | [.word m] => asmPlain m
  | [.word m, .hash, .word v] => asmImmediate m v
  | [.word m, .hash, .word a, .comma, .hash, .word b] =>
    if m = "SETTH".toList then (asmInt a).bind fun a => (asmInt b).map fun b => .setTh a b else none
  | .word m :: .opening :: ts =>
    if m = "MEASURE".toList then (asmFields ts).map .measure
    else if m = "CFG.ENCODE".toList then (asmFields ts).map .cfgEncode
    else none
  | _ => none

/-- The commands of a line of text: none for a line that is blank or only a comment, and no answer (`none`) for a line
that is not of the syntax or whose operand does not fit. -/
def assembleText (port : ConfigFields) (line : String) : Option (List Request) :=
  match asmTokens [] line.toList with
  | [] => some []
  | ts => (asmLine ts).bind (assemble port)

end Sys2Proof.Machine
end

