-- ==== Sys2Proof/Safety.lean ====
section
/-! DEFINITION. What the claims call a good state: the latches fit the sequencer state, the response registers and every
event of the trace are ones the rules allow, and the transport's answers fit `STATUS_W`. `Inv` is the conjunction; a
statement that needs one of them as a premise names it, and that every step keeps `Inv` is a statement of its own. -/

namespace Sys2Proof.Machine

open Sys2Proof

/-- The busy states of each command (40_sequencer.md R103; 42_config_access.md R140, R141; 43_measure.md R180). -/
def busyPath : Instr → List Seq
  | .getStatus _ | .getChannel _ | .getGain _ | .getMode _ | .getDataRate _ => [.getRd]
  | .getCompMode _ | .getCompPolarity _ | .getCompLatch _ | .getCompQueue _ => [.getRd]
  | .setStatus _ | .setChannel _ | .setGain _ | .setMode _ | .setDataRate _ => [.setRd, .setWr]
  | .setCompMode _ | .setCompPolarity _ | .setCompLatch _ | .setCompQueue _ => [.setRd, .setWr]
  | .measure _ => [.mReq, .mPoll, .mReady]
  | .getLoThresh _ | .getHiThresh _ => [.thRd]
  | .setLoThresh _ | .setHiThresh _ => [.thWr]
  | .cfgEncode _ | .cfgDecode _ | .thEncode _ | .thDecode _ | .resDecode _ => []

/-- `st` is a busy state of the latched command. -/
def onPath (s : State) : Bool :=
  match latchedInstr s with
  | some i => (busyPath i).contains s.st
  | none => false

/-- The latches fit `st`: none holds a value in `IDLE` (10_state.md R20); a busy block has no response and no command
presented (10_state.md R24; 40_sequencer.md R101), is on the path of its latched command, and holds exactly the other
latches its next rules read (10_state.md R21). -/
def latchesFit (s : State) : Bool :=
  if s.st = .idle then
    s.opL.isNone && s.argL.isNone && s.finL.isNone && s.wL.isNone && s.npoll.isNone
  else
    !s.reqValid && !s.rspValid && onPath s
      && (s.finL.isSome == (s.st == .mReq || s.st == .mPoll || s.st == .mReady))
      && (s.wL.isSome == (s.st == .setWr))
      && (s.npoll.isSome == (s.st == .mPoll || s.st == .mReady))

/-- A response the rules allow: an OK response carries no code, an error has value 0, no fields and a code, which is
the transport's non-zero code or, for a timeout, which needs a poll limit, 0 (30_encoding.md R89; 60_exceptions.md R221,
R222). -/
def responseLegal (p : Params) (r : Response) : Bool :=
  match r.kind, r.code with
  | .ok, none => true
  | .transportError, some c => r.value = 0 && r.fields.isNone && c ≠ 0 && c < 2 ^ p.statusW
  | .timeout, some c => r.value = 0 && r.fields.isNone && c = 0 && p.pollLimit.isSome
  | _, _ => false

/-- While a response is present, the response registers hold one the rules allow. -/
def responseFits (s : State) : Bool :=
  if s.rspValid then
    match s.rspKind, s.rspValue with
    | some kind, some value => responseLegal s.params { kind, value, fields := s.rspFields, code := s.rspCode }
    | _, _ => false
  else true

/-- A call the block may issue: two bytes (20_memory.md R52), the handle unchanged (R57), no write of the conversion
register (R59), and a threshold word with its low four bits zero (10_state.md R42). -/
def callLegal (p : Params) (c : Call) : Bool :=
  c.handle = p.handle && c.length = 2 &&
    match c.access with
    | .read => true
    | .write _ b1 =>
      c.reg.writable && (c.reg = .config || b1.extractLsb' 0 4 = 0#4)

/-- An event the block may leave. Only a successful read has bytes (20_memory.md R54). -/
def eventLegal (p : Params) : Event → Bool
  | .call c status bytes =>
    callLegal p c && status < 2 ^ p.statusW && (bytes.isSome == (c.access = .read && status = 0))
  | .cut c => callLegal p c
  | .response r => responseLegal p r

/-- Every status code of the answers is below `2 ^ w`. -/
def Answers.fit (w : Nat) : Answers → Bool
  | .silent => true
  | .forever a => a.status < 2 ^ w
  | .drawn _ _ => true
  | .next a rest => a.status < 2 ^ w && rest.fit w

/-- Every status code still to come has `STATUS_W` bits (00_scope.md R7; 20_memory.md R51). -/
def answersFit (s : State) : Bool := s.answers.fit s.params.statusW

/-- While polling under `POLL_LIMIT = some n`, fewer than `n` polls have been busy (43_measure.md R182). -/
def pollsBounded (s : State) : Bool :=
  match s.params.pollLimit, s.npoll with
  | some n, some k => s.st ≠ .mPoll || k < n
  | _, _ => true

/-- `POLL_LIMIT = some n` requires `n ≥ 1` (43_measure.md R182). -/
def paramsFit (p : Params) : Bool := p.pollLimit ≠ some 0

/-- The invariant of the model. -/
abbrev Inv (s : State) : Prop :=
  latchesFit s = true ∧ responseFits s = true ∧ pollsBounded s = true ∧ answersFit s = true
    ∧ paramsFit s.params = true ∧ s.trace.all (eventLegal s.params) = true

/-- The transport calls of a trace, answered or cut. -/
def callsOf (t : List Event) : List Call :=
  t.filterMap fun e =>
    match e with
    | .call c _ _ => some c
    | .cut c => some c
    | .response _ => none

/-- `n` steps from `s`, as `Host.Core.run` takes them. -/
def steps : Nat → State → Result
  | 0, s => .next s
  | n + 1, s =>
    match step s with
    | .next s' => steps n s'
    | .fault e => .fault e
    | .refused r => .refused r

/-- A block that is busy now and after every step: the run is a hang (40_sequencer.md R108; 70_reset_and_hazards.md
R246). -/
def Hangs (s : State) : Prop := ∀ n, ∃ t, steps n s = .next t ∧ t.st ≠ .idle

/-- The answers `all` begin with those of `as`, in order, and go on as `rest`. -/
def Answers.give (w : Nat) : List Answer → Answers → Answers → Prop
  | [], all, rest => all = rest
  | a :: as, all, rest => ∃ more, all.draw w = some (a, more) ∧ Answers.give w as more rest

/-- The transport answers the block's next calls by `as`, in order, and goes on as `rest`. -/
def State.gives (s : State) (as : List Answer) (rest : Answers) : Prop := Answers.give s.params.statusW as s.answers rest

/-- A result with its next state, if it has one, changed by `g`. -/
def nextMap (g : State → State) : Result → Result
  | .next s => .next (g s)
  | .fault e => .fault e
  | .refused r => .refused r

/-- A read of register `r` answered with status 0 and the bytes `b0, b1`. -/
def okRead (p : Params) (r : Reg) (b0 b1 : Byte) : Event :=
  .call { handle := p.handle, reg := r, access := .read, length := 2 } 0 (some (b0, b1))

/-- A read of register `r` answered with a status that is not 0. -/
def failedRead (p : Params) (r : Reg) (status : Nat) : Event :=
  .call { handle := p.handle, reg := r, access := .read, length := 2 } status none

/-- A write of the bytes `b0, b1` to register `r` answered with `status`. -/
def wrote (p : Params) (r : Reg) (b0 b1 : Byte) (status : Nat) : Event :=
  .call { handle := p.handle, reg := r, access := .write b0 b1, length := 2 } status none

/-- `s` with a command ended by the response `r`, after the events `es` and with the answers `rest` still to come: `IDLE`,
no latch with a value, and everything else as in `s` (40_sequencer.md R104; 10_state.md R20, R24). -/
def responded (es : List Event) (r : Response) (rest : Answers) (s : State) : State :=
  { s with
    st := .idle
    opL := none
    argL := none
    finL := none
    wL := none
    npoll := none
    rspValid := true
    rspKind := some r.kind
    rspValue := some r.value
    rspFields := r.fields
    rspCode := r.code
    answers := rest
    trace := s.trace ++ (es ++ [.response r]) }

/-- `s` with the presented command refused for `reason` (40_sequencer.md R105). -/
def refusedFor (reason : RefuseReason) (s : State) : State :=
  { s with reqValid := false, rspValid := false, refused := true, refusalReason := some reason }

/-- An OK response with a value. -/
def okResponse (value : Word) : Response := { kind := .ok, value := value, fields := none, code := none }

/-- The response of a failing call, whose status is copied unchanged (60_exceptions.md R221). -/
def transportErrorResponse (status : Nat) : Response :=
  { kind := .transportError, value := 0, fields := none, code := some status }

/-- The response of a timeout (60_exceptions.md R222). -/
def timeoutResponse : Response := { kind := .timeout, value := 0, fields := none, code := some 0 }

/-- A block waiting in `IDLE` to which the caller presents the command word `op ++ arg`, no reset coming. -/
def presents (s : State) (op : BitVec 8) (arg : Word) : Prop :=
  s.resetPin = .released ∧ s.st = .idle ∧ s.reqValid = true ∧ s.reqCmd = op ++ arg

/-- The answers of poll reads that succeed and find the device busy, bit 15 = 0 (43_measure.md R182). -/
def busyPolls (as : List Answer) : Prop :=
  ∀ a ∈ as, a.status = 0 ∧ conversionComplete (wordOfBytes a.b0 a.b1) = false

/-- The events of successful reads of register 1, one for each answer. -/
def pollEvents (p : Params) (as : List Answer) : List Event := as.map fun a => okRead p .config a.b0 a.b1

/-- The event of MEASURE's start write for the field set `F`: the word of `F` with bit 15 set (43_measure.md R181). -/
def startWrite (p : Params) (F : ConfigFields) (status : Nat) : Event :=
  wrote p .config (firstByte (encodeConfig F ||| 0x8000)) (secondByte (encodeConfig F ||| 0x8000)) status

end Sys2Proof.Machine
end

