-- ==== Sys2Proof/Certificates/Slice0/Obligations.lean ====
section
/-! DEFINITION. The statements for the provers. Each docstring says which rule of spec/ it formalises. -/

open Sys2Proof Sys2Proof.Machine

/-! ### Encoding -/

/-- Words written out from the opcode map and the worked examples decode to their commands, and the words of the
refusal examples are refused (30_encoding.md R85, R86; 95_test_vectors.md L1, L2-C, L2-E, L2-F). -/
def Obligations.SpecWordsDecodeAsWritten : Prop :=
  decode 0x12ABCD = .command (.getGain 0xABCD) ∧ decode 0x220006 = .command (.setGain 6) ∧
  decode 0x280003 = .command (.setCompQueue 3) ∧ decode 0x300000 = .command (.measure 0) ∧
  decode 0x41F800 = .command (.setLoThresh 0xF800) ∧ decode 0x420000 = .command (.getHiThresh 0) ∧
  decode 0x518583 = .command (.cfgDecode 0x8583) ∧ decode 0x541230 = .command (.resDecode 0x1230) ∧
  decode 0x220008 = .refuse .argOutOfField ∧ decode 0x520800 = .refuse .thresholdOutOfRange ∧
  decode 0x52F7FF = .refuse .thresholdOutOfRange ∧ decode 0x190000 = .refuse .reservedOpcode ∧
  decode 0x290000 = .refuse .reservedOpcode ∧ decode 0x000000 = .refuse .reservedOpcode

/-- Decoding the word of any admitted command gives that command, with its argument whole (30_encoding.md R81, R82, R85,
R88). -/
def Obligations.DecodeOfEncodeIsTheCommand : Prop :=
  ∀ i : Instr, i.wellFormed = true → decode (encode i) = .command i

/-- A word that decodes to a command is that command's word, and the command is admitted: no bit of a word is lost and no
two words decode to one command (30_encoding.md R81, R83, R88). -/
def Obligations.EncodeOfDecodeIsTheWord : Prop :=
  ∀ (w : Cmd) (i : Instr), decode w = .command i → encode i = w ∧ i.wellFormed = true

/-- The reserved opcodes are exactly the listed ones, and a presented word with one is refused: no event is added to the
trace, so no transport call and no response, and only the mark is set (30_encoding.md R86; the reason is kept in the
model's own field, log 14). -/
def Obligations.ReservedOpcodesAreRefused : Prop :=
  ∀ (op : BitVec 8) (arg : Word),
    (decode (op ++ arg) = .refuse .reservedOpcode ↔
      op.toNat ≤ 0x0F ∨ (0x19 ≤ op.toNat ∧ op.toNat ≤ 0x1F) ∨ (0x29 ≤ op.toNat ∧ op.toNat ≤ 0x2F) ∨
        (0x31 ≤ op.toNat ∧ op.toNat ≤ 0x3F) ∨ (0x44 ≤ op.toNat ∧ op.toNat ≤ 0x4F) ∨ 0x55 ≤ op.toNat) ∧
    ∀ s : State, presents s op arg → decode (op ++ arg) = .refuse .reservedOpcode →
      step s = .next (refusedFor .reservedOpcode s)

/-- SET of field `i` admits exactly the arguments with `arg[15:w] = 0`, every value of the field among them; a wider one
is refused in the accept step, before any transport call (42_config_access.md R142; the reason's field is the model's,
log 14). -/
def Obligations.SetAdmitsExactlyFieldValues : Prop :=
  ∀ (f : Field) (arg : Word) (s : State), presents s (BitVec.ofNat 8 (0x20 + f.index)) arg →
    step s =
      if arg.toNat < 2 ^ f.width then
        .next { s with
          reqValid := false, rspValid := false, st := .setRd
          opL := some (BitVec.ofNat 8 (0x20 + f.index)), argL := some arg }
      else .next (refusedFor .argOutOfField s)

/-- A threshold argument outside −2048..2047 is refused in the accept step of SET_LO_THRESH, SET_HI_THRESH and TH_ENCODE,
with no transport call; one inside is not (44_threshold.md R204; the reason's field is the model's, log 14). -/
def Obligations.OutOfRangeThresholdIsRefused : Prop :=
  ∀ (op : BitVec 8) (arg : Word) (s : State), (op = 0x41 ∨ op = 0x43 ∨ op = 0x52) → presents s op arg →
    (¬ (-2048 ≤ arg.toInt ∧ arg.toInt ≤ 2047) → step s = .next (refusedFor .thresholdOutOfRange s)) ∧
    (-2048 ≤ arg.toInt ∧ arg.toInt ≤ 2047 →
      ∃ t, step s = .next t ∧ t.refused = s.refused ∧ (arg.extractLsb' 0 12).toInt = arg.toInt)

/-- The ignored `arg` of formats N and F changes nothing but the latch `arg_l` it stands in: two commands of one such
opcode step alike (30_encoding.md R82). -/
def Obligations.IgnoredArgumentChangesOnlyItsLatch : Prop :=
  ∀ (i j : Instr) (s : State), opcode i = opcode j → (i.format = .none ∨ i.format = .fields) →
    nextMap (fun t => { t with argL := none }) (exec i s) = nextMap (fun t => { t with argL := none }) (exec j s)

/-! ### The register codec -/

/-- `decode` reads each field at its place in the configuration word, with the corner cases and the example of the rule
(41_codec.md R120). -/
def Obligations.ConfigDecodeReadsTheLayout : Prop :=
  (∀ w : Word,
    (decodeConfig w).status.toNat = w.toNat / 32768 ∧ (decodeConfig w).channel.toNat = w.toNat / 4096 % 8 ∧
    (decodeConfig w).gain.toNat = w.toNat / 512 % 8 ∧ (decodeConfig w).mode.toNat = w.toNat / 256 % 2 ∧
    (decodeConfig w).dataRate.toNat = w.toNat / 32 % 8 ∧ (decodeConfig w).compMode.toNat = w.toNat / 16 % 2 ∧
    (decodeConfig w).compPolarity.toNat = w.toNat / 8 % 2 ∧ (decodeConfig w).compLatch.toNat = w.toNat / 4 % 2 ∧
    (decodeConfig w).compQueue.toNat = w.toNat % 4) ∧
  decodeConfig 0x0000 = ⟨0, 0, 0, 0, 0, 0, 0, 0, 0⟩ ∧ decodeConfig 0xFFFF = ⟨1, 7, 7, 1, 7, 1, 1, 1, 3⟩ ∧
  decodeConfig 0x8583 = ⟨1, 0, 2, 1, 4, 0, 0, 0, 3⟩

/-- `encode` packs each field at its place, whatever its value, with the example of the rule (41_codec.md R121). -/
def Obligations.ConfigEncodePacksTheLayout : Prop :=
  (∀ F : ConfigFields,
    (encodeConfig F).toNat =
      F.status.toNat * 32768 + F.channel.toNat * 4096 + F.gain.toNat * 512 + F.mode.toNat * 256 +
        F.dataRate.toNat * 32 + F.compMode.toNat * 16 + F.compPolarity.toNat * 8 + F.compLatch.toNat * 4 +
        F.compQueue.toNat) ∧
  encodeConfig ⟨1, 0, 2, 1, 4, 0, 0, 0, 3⟩ = 0x8583

/-- `encode` and `decode` are inverse bijections between words and field records (41_codec.md R122). -/
def Obligations.ConfigCodecIsABijection : Prop :=
  (∀ w : Word, encodeConfig (decodeConfig w) = w) ∧ (∀ F : ConfigFields, decodeConfig (encodeConfig F) = F)

/-- `field_get` and `field_set` read and replace the bits of one field, leave every other bit, and agree with `decode` and
`encode` (41_codec.md R123). -/
def Obligations.FieldHelpersAgreeWithTheCodec : Prop :=
  ∀ (w : Word) (f : Field) (v : BitVec f.width),
    (∀ k, k < f.width → (fieldGet w f).getLsbD k = w.getLsbD (f.lo + k)) ∧
    (∀ k, k < 16 → (fieldSet w f v).getLsbD k =
      if f.lo ≤ k ∧ k < f.lo + f.width then v.getLsbD (k - f.lo) else w.getLsbD k) ∧
    fieldGet w f = fieldOf (decodeConfig w) f ∧
    fieldSet w f v = encodeConfig (withField (decodeConfig w) f v)

/-- `result_decode` is `w[15:4]` read as unsigned, whatever the low four bits, with the rule's corner cases and example
(41_codec.md R124). -/
def Obligations.ResultDecodeIsUnsigned : Prop :=
  (∀ w : Word, (resultDecode w).toNat = w.toNat / 16) ∧ (resultDecode 0x000F).toNat = 0 ∧
  (resultDecode 0xFFF0).toNat = 4095 ∧ (resultDecode 0x8000).toNat = 2048 ∧
  resultDecode (wordOfBytes 0x12 0x30) = 0x123

/-- `threshold_decode` is `w[15:4]` read as two's complement, an arithmetic right shift by 4, in −2048..2047 and blind to
the low four bits, with the rule's corner cases and example (41_codec.md R125). -/
def Obligations.ThresholdDecodeIsSigned : Prop :=
  (∀ w : Word,
    (thresholdDecode w).toInt = w.toInt / 16 ∧ -2048 ≤ (thresholdDecode w).toInt ∧
    (thresholdDecode w).toInt ≤ 2047 ∧
    ∀ v : Word, w.toNat / 16 = v.toNat / 16 → thresholdDecode w = thresholdDecode v) ∧
  (thresholdDecode 0x8000).toInt = -2048 ∧ (thresholdDecode 0x7FF0).toInt = 2047 ∧
  (thresholdDecode 0x7FFF).toInt = 2047 ∧ (thresholdDecode 0xFFF0).toInt = -1 ∧ (thresholdDecode 0x000F).toInt = 0

/-- `threshold_encode` left-justifies with four zero bits; decoding gives the value back, and encoding a decoded word gives
the word with its padding cleared, which differs from it exactly when the padding is not zero; with the rule's example
(41_codec.md R126). -/
def Obligations.ThresholdEncodeLeftJustifies : Prop :=
  (∀ t : Code,
    (thresholdEncode t).toNat = t.toNat * 16 ∧ thresholdDecode (thresholdEncode t) = t ∧
    (thresholdEncode t).extractLsb' 0 4 = 0) ∧
  (∀ w : Word,
    thresholdEncode (thresholdDecode w) = w.extractLsb' 4 12 ++ 0#4 ∧
    (thresholdEncode (thresholdDecode w) ≠ w ↔ w.extractLsb' 0 4 ≠ 0)) ∧
  (0x800 : Code).toInt = -2048 ∧ thresholdEncode 0x800 = 0x8000

/-- The two bytes of a register are the word's high byte and then its low byte, in both directions, and the rule's example
(20_memory.md R53). -/
def Obligations.RegisterBytesAreBigEndian : Prop :=
  (∀ b0 b1 : Byte, (wordOfBytes b0 b1).toNat = b0.toNat * 256 + b1.toNat) ∧
  (∀ v : Word,
    (firstByte v).toNat = v.toNat / 256 ∧ (secondByte v).toNat = v.toNat % 256 ∧
    wordOfBytes (firstByte v) (secondByte v) = v) ∧
  wordOfBytes 0x12 0x30 = 0x1230

/-! ### The pure codec commands -/

/-- CFG_ENCODE responds with the word of `req_fields` in its accept step, and changes nothing else: no transport call
(41_codec.md R127). -/
def Obligations.CfgEncodeRespondsWithTheWord : Prop :=
  ∀ (ignored : Word) (s : State), s.st = .idle →
    ∃ w : Word, exec (.cfgEncode ignored) s = .next (responded [] (okResponse w) s.answers { s with reqValid := false }) ∧
      decodeConfig w = s.reqFields

/-- CFG_DECODE responds with value 0 and the nine fields of its word in its accept step, and changes nothing else
(41_codec.md R128). -/
def Obligations.CfgDecodeRespondsWithTheFields : Prop :=
  ∀ (word : Word) (s : State), s.st = .idle →
    ∃ F : ConfigFields,
      exec (.cfgDecode word) s =
        .next (responded [] { kind := .ok, value := 0, fields := some F, code := none } s.answers
          { s with reqValid := false }) ∧
      encodeConfig F = word

/-- TH_ENCODE, TH_DECODE and RES_DECODE respond in their accept step with the left-justified word, the sign-extended
threshold and the zero-extended result, and change nothing else; TH_ENCODE of an argument out of range is refused
(41_codec.md R129, R130, R131). That the meaning refuses such an argument by itself and that the reason of the refusal is
kept in a field are the model's choices, log 17 and log 14. -/
def Obligations.PureThresholdAndResultCommandsComplete : Prop :=
  ∀ (arg : Word) (s : State), s.st = .idle →
    (∃ v : Word, exec (.thDecode arg) s = .next (responded [] (okResponse v) s.answers { s with reqValid := false }) ∧
      v.toInt = arg.toInt / 16) ∧
    (∃ v : Word, exec (.resDecode arg) s = .next (responded [] (okResponse v) s.answers { s with reqValid := false }) ∧
      v.toNat = arg.toNat / 16) ∧
    (-2048 ≤ arg.toInt ∧ arg.toInt ≤ 2047 →
      ∃ v : Word, exec (.thEncode arg) s = .next (responded [] (okResponse v) s.answers { s with reqValid := false }) ∧
        v.toInt = arg.toInt * 16) ∧
    (¬ (-2048 ≤ arg.toInt ∧ arg.toInt ≤ 2047) → exec (.thEncode arg) s = .next (refusedFor .thresholdOutOfRange s))

/-! ### GET_x -/

/-- The read step of GET_STATUS, GET_CHANNEL, GET_GAIN, GET_MODE, GET_DATA_RATE, GET_COMP_MODE, GET_COMP_POLARITY,
GET_COMP_LATCH and GET_COMP_QUEUE: one read of register 1, whose field is the response; a failing read ends the command
with its status; everything else is unchanged (42_config_access.md R140). -/
def Obligations.GetRespondsWithItsField : Prop :=
  ∀ (f : Field) (ignored : Word) (s : State) (a : Answer) (rest : Answers),
    s.st = .getRd → s.draw = some (a, rest) →
    (a.status = 0 →
      ∃ v : Word,
        exec (getInstr f ignored) s =
          .next (responded [okRead s.params .config a.b0 a.b1] (okResponse v) rest s) ∧
        v.toNat = (a.b0.toNat * 256 + a.b1.toNat) / 2 ^ f.lo % 2 ^ f.width) ∧
    (a.status ≠ 0 →
      exec (getInstr f ignored) s =
        .next (responded [failedRead s.params .config a.status] (transportErrorResponse a.status) rest s))

/-- From a presented GET word to its response, whatever its `arg`: two steps and exactly one transport call, a read of
register 1. A read that succeeds gives the zero-extended field, one that fails its status; nothing else changes
(42_config_access.md R140; 40_sequencer.md R102, R106). -/
def Obligations.GetRunsInOneRead : Prop :=
  ∀ (f : Field) (arg : Word) (s : State) (a : Answer) (rest : Answers),
    presents s (BitVec.ofNat 8 (0x10 + f.index)) arg → s.draw = some (a, rest) →
    (a.status = 0 →
      ∃ v : Word,
        steps 2 s =
          .next (responded [okRead s.params .config a.b0 a.b1] (okResponse v) rest { s with reqValid := false }) ∧
        v.toNat = (a.b0.toNat * 256 + a.b1.toNat) / 2 ^ f.lo % 2 ^ f.width) ∧
    (a.status ≠ 0 →
      steps 2 s =
        .next (responded [failedRead s.params .config a.status] (transportErrorResponse a.status) rest
          { s with reqValid := false }))

/-! ### SET_x -/

/-- The read step of SET_STATUS, SET_CHANNEL, SET_GAIN, SET_MODE, SET_DATA_RATE, SET_COMP_MODE, SET_COMP_POLARITY,
SET_COMP_LATCH and SET_COMP_QUEUE after a read that succeeded: a field that already holds the value completes the command
with no write; one that does not sends the word just read, with that field replaced, to `w_l`; everything else is
unchanged (42_config_access.md R141). -/
def Obligations.SetReadComparesTheField : Prop :=
  ∀ (f : Field) (arg : Word) (s : State) (a : Answer) (rest : Answers),
    s.st = .setRd → s.draw = some (a, rest) → a.status = 0 →
    (fieldOf (decodeConfig (wordOfBytes a.b0 a.b1)) f = arg.extractLsb' 0 f.width →
      exec (setInstr f arg) s = .next (responded [okRead s.params .config a.b0 a.b1] (okResponse 0) rest s)) ∧
    (fieldOf (decodeConfig (wordOfBytes a.b0 a.b1)) f ≠ arg.extractLsb' 0 f.width →
      exec (setInstr f arg) s =
        .next { s with
          st := .setWr
          wL := some (encodeConfig (withField (decodeConfig (wordOfBytes a.b0 a.b1)) f (arg.extractLsb' 0 f.width)))
          answers := rest
          trace := s.trace ++ [okRead s.params .config a.b0 a.b1] })

/-- The write step of every SET command: both bytes of `w_l`, the high one first, to register 1; the response is OK with
value 0, or the failing write's status; everything else is unchanged (42_config_access.md R141, R161). -/
def Obligations.SetWriteSendsTheLatchedWord : Prop :=
  ∀ (f : Field) (arg w : Word) (s : State) (a : Answer) (rest : Answers),
    s.st = .setWr → s.wL = some w → s.draw = some (a, rest) →
    exec (setInstr f arg) s =
      .next (responded [wrote s.params .config (w.extractLsb' 8 8) (w.extractLsb' 0 8) a.status]
        (if a.status = 0 then okResponse 0 else transportErrorResponse a.status) rest s)

/-- From a presented and admitted SET word to its response, on the answer `a` of the read and, if there is a write, `b` of
the write. A failing read ends it after one call; an unchanged field after one call with no write; a changed one after two
calls, the write carrying the word just read with the field replaced, whether that write succeeds or fails
(42_config_access.md R141, R161). -/
def Obligations.SetRunsReadModifyWrite : Prop :=
  ∀ (f : Field) (arg : Word) (s : State) (a : Answer) (more : Answers),
    presents s (BitVec.ofNat 8 (0x20 + f.index)) arg → arg.toNat < 2 ^ f.width → s.draw = some (a, more) →
    (a.status ≠ 0 →
      steps 2 s =
        .next (responded [failedRead s.params .config a.status] (transportErrorResponse a.status) more
          { s with reqValid := false })) ∧
    (a.status = 0 → (fieldOf (decodeConfig (wordOfBytes a.b0 a.b1)) f).toNat = arg.toNat →
      steps 2 s =
        .next (responded [okRead s.params .config a.b0 a.b1] (okResponse 0) more { s with reqValid := false })) ∧
    (a.status = 0 → (fieldOf (decodeConfig (wordOfBytes a.b0 a.b1)) f).toNat ≠ arg.toNat →
      ∀ (b : Answer) (rest : Answers), s.gives [a, b] rest →
      ∃ w : Word,
        steps 3 s =
          .next (responded
            [okRead s.params .config a.b0 a.b1, wrote s.params .config (firstByte w) (secondByte w) b.status]
            (if b.status = 0 then okResponse 0 else transportErrorResponse b.status) rest
            { s with reqValid := false }) ∧
        decodeConfig w = withField (decodeConfig (wordOfBytes a.b0 a.b1)) f (BitVec.ofNat f.width arg.toNat))

/-- Whenever a step leaves the block about to write (`SET_WR`), it has just read register 1, and the word to write differs
from the word read in the bits of the latched command's field and in no other: for every field but `status`, bit 15 is
re-inserted as read (42_config_access.md R141; 70_reset_and_hazards.md R244; 90_conflicts.md C1). -/
def Obligations.WriteBackChangesOneFieldOnly : Prop :=
  ∀ s t : State, step s = .next t → t.st = .setWr →
    ∃ (f : Field) (arg : Word) (b0 b1 : Byte) (w : Word),
      latchedInstr t = some (setInstr f arg) ∧ t.trace = s.trace ++ [okRead s.params .config b0 b1] ∧
      t.wL = some w ∧ w ≠ wordOfBytes b0 b1 ∧ fieldGet w f = fieldOperand f arg ∧
      (∀ k, k < 16 → ¬ (f.lo ≤ k ∧ k < f.lo + f.width) → w.getLsbD k = (wordOfBytes b0 b1).getLsbD k) ∧
      (f ≠ .status → conversionComplete w = conversionComplete (wordOfBytes b0 b1))

/-! ### MEASURE -/

/-- `M_REQ`: an unconditional write to register 1 of the latched field set's word with bit 15 forced to 1; then polling
begins with `npoll = 0`, or the failing write's status ends the command (43_measure.md R181). -/
def Obligations.MeasureStartsWithBitFifteenSet : Prop :=
  ∀ (ignored : Word) (F : ConfigFields) (s : State) (a : Answer) (rest : Answers),
    s.st = .mReq → s.finL = some F → s.draw = some (a, rest) →
    (a.status = 0 →
      exec (.measure ignored) s =
        .next { s with
          st := .mPoll, npoll := some 0, answers := rest, trace := s.trace ++ [startWrite s.params F 0] }) ∧
    (a.status ≠ 0 →
      exec (.measure ignored) s =
        .next (responded [startWrite s.params F a.status] (transportErrorResponse a.status) rest s))

/-- `M_POLL`: a failing poll read ends the command with its status before bit 15 is tested; bit 15 = 1 leads to `M_READY`;
bit 15 = 0 counts the poll and either polls again or, where `POLL_LIMIT = some n` and the count reaches `n`, ends with
TIMEOUT. Bits 14 to 0 change nothing but the trace (43_measure.md R182). -/
def Obligations.MeasurePollsBitFifteen : Prop :=
  ∀ (ignored : Word) (k : Nat) (s : State) (a : Answer) (rest : Answers),
    s.st = .mPoll → s.npoll = some k → s.draw = some (a, rest) →
    (a.status ≠ 0 →
      exec (.measure ignored) s =
        .next (responded [failedRead s.params .config a.status] (transportErrorResponse a.status) rest s)) ∧
    (a.status = 0 → 128 ≤ a.b0.toNat →
      exec (.measure ignored) s =
        .next { s with st := .mReady, answers := rest, trace := s.trace ++ [okRead s.params .config a.b0 a.b1] }) ∧
    (a.status = 0 → a.b0.toNat < 128 → (∀ n, s.params.pollLimit = some n → k + 1 < n) →
      exec (.measure ignored) s =
        .next { s with
          npoll := some (k + 1), answers := rest, trace := s.trace ++ [okRead s.params .config a.b0 a.b1] }) ∧
    (a.status = 0 → a.b0.toNat < 128 → (∃ n, s.params.pollLimit = some n ∧ n ≤ k + 1) →
      exec (.measure ignored) s =
        .next (responded [okRead s.params .config a.b0 a.b1] timeoutResponse rest s))

/-- `M_READY`: one read of the conversion register, whose upper twelve bits, unsigned, are the response; a failing read
ends the command with its status (43_measure.md R183). -/
def Obligations.MeasureRespondsWithTheResult : Prop :=
  ∀ (ignored : Word) (s : State) (a : Answer) (rest : Answers),
    s.st = .mReady → s.draw = some (a, rest) →
    (a.status = 0 →
      ∃ v : Word,
        exec (.measure ignored) s =
          .next (responded [okRead s.params .conversion a.b0 a.b1] (okResponse v) rest s) ∧
        v.toNat = (a.b0.toNat * 256 + a.b1.toNat) / 16) ∧
    (a.status ≠ 0 →
      exec (.measure ignored) s =
        .next (responded [failedRead s.params .conversion a.status] (transportErrorResponse a.status) rest s))

/-- A MEASURE whose poll reads are busy for `busy.length` times and then ready makes, from its presented word to its
response, exactly one write of register 1, `busy.length + 1` reads of register 1 and one read of register 0, in that
order, and responds with the result; a poll limit, if there is one, is not reached (43_measure.md R184). -/
def Obligations.MeasureCallsAreCounted : Prop :=
  ∀ (arg : Word) (s : State) (start : Answer) (busy : List Answer) (ready result : Answer) (rest : Answers),
    presents s 0x30 arg → s.gives (start :: busy ++ [ready, result]) rest →
    start.status = 0 → busyPolls busy → ready.status = 0 →
    conversionComplete (wordOfBytes ready.b0 ready.b1) = true → result.status = 0 →
    (∀ n, s.params.pollLimit = some n → busy.length < n) →
    ∃ v : Word,
      steps (busy.length + 4) s =
        .next (responded
          (startWrite s.params s.reqFields 0 :: pollEvents s.params (busy ++ [ready])
            ++ [okRead s.params .conversion result.b0 result.b1])
          (okResponse v) rest { s with reqValid := false }) ∧
      v.toNat = (result.b0.toNat * 256 + result.b1.toNat) / 16

/-- A failing poll read, the `busy.length + 1`-th, aborts the MEASURE with its status after exactly that many polls and the
start write, and no later answer is drawn (43_measure.md R182, R184; 60_exceptions.md R224; 90_conflicts.md C2). -/
def Obligations.FailingPollAbortsMeasure : Prop :=
  ∀ (arg : Word) (s : State) (start : Answer) (busy : List Answer) (failing : Answer) (rest : Answers),
    presents s 0x30 arg → s.gives (start :: busy ++ [failing]) rest →
    start.status = 0 → busyPolls busy → failing.status ≠ 0 →
    (∀ n, s.params.pollLimit = some n → busy.length < n) →
    steps (busy.length + 3) s =
      .next (responded
        (startWrite s.params s.reqFields 0 :: pollEvents s.params busy
          ++ [failedRead s.params .config failing.status])
        (transportErrorResponse failing.status) rest { s with reqValid := false })

/-- With `POLL_LIMIT = none`, a MEASURE whose every poll read succeeds with bit 15 = 0 is still polling after any number of
polls, with no response (70_reset_and_hazards.md R246; 43_measure.md R182). -/
def Obligations.UnboundedMeasureHangs : Prop :=
  ∀ (arg : Word) (s : State) (start : Answer) (busy : List Answer) (rest : Answers),
    presents s 0x30 arg → s.gives (start :: busy) rest → start.status = 0 → busyPolls busy →
    s.params.pollLimit = none →
    steps (busy.length + 2) s =
      .next { s with
        st := .mPoll, reqValid := false, rspValid := false, opL := some 0x30, argL := some arg
        finL := some s.reqFields, npoll := some busy.length, answers := rest
        trace := s.trace ++ startWrite s.params s.reqFields 0 :: pollEvents s.params busy }

/-- The hang is kept as a run without end. With `POLL_LIMIT = none`, where every poll read succeeds with bit 15 = 0, however
many there are, MEASURE is busy after every step and never completes; and there are such answers: any answer of that kind
given for ever (70_reset_and_hazards.md R246; 40_sequencer.md R108). -/
def Obligations.MeasureHangIsARunWithoutEnd : Prop :=
  ∀ (arg : Word) (s : State) (start : Answer), presents s 0x30 arg → s.params.pollLimit = none → start.status = 0 →
    ((∀ n, ∃ busy rest, busy.length = n ∧ busyPolls busy ∧ s.gives (start :: busy) rest) →
      ∃ t, step s = .next t ∧ t.rspValid = false ∧ Hangs t) ∧
    (∀ a : Answer, s.answers = .next start (.forever a) → a.status = 0 →
      conversionComplete (wordOfBytes a.b0 a.b1) = false → ∃ t, step s = .next t ∧ t.rspValid = false ∧ Hangs t)

/-- With `POLL_LIMIT = some n`, `n ≥ 1`, a MEASURE whose first `n` poll reads succeed with bit 15 = 0 ends with TIMEOUT
after exactly those `n` polls, code 0 and value 0 (60_exceptions.md R222; 43_measure.md R182). -/
def Obligations.BoundedMeasureTimesOut : Prop :=
  ∀ (arg : Word) (s : State) (start : Answer) (busy : List Answer) (rest : Answers),
    presents s 0x30 arg → s.gives (start :: busy) rest → start.status = 0 → busyPolls busy →
    1 ≤ busy.length → s.params.pollLimit = some busy.length →
    steps (busy.length + 2) s =
      .next (responded (startWrite s.params s.reqFields 0 :: pollEvents s.params busy) timeoutResponse rest
        { s with reqValid := false })

/-! ### Threshold access -/

/-- The read step of GET_LO_THRESH and GET_HI_THRESH: one read of register 2 or 3, whose upper twelve bits, sign-extended,
are the response; a failing read ends the command with its status; everything else is unchanged (44_threshold.md R200,
R202). -/
def Obligations.ThresholdGetSignExtends : Prop :=
  ∀ (i : Instr) (r : Reg) (ignored : Word) (s : State) (a : Answer) (rest : Answers),
    (i = .getLoThresh ignored ∧ r = .lowThreshold ∨ i = .getHiThresh ignored ∧ r = .highThreshold) →
    s.st = .thRd → s.draw = some (a, rest) →
    (a.status = 0 →
      ∃ v : Word,
        exec i s = .next (responded [okRead s.params r a.b0 a.b1] (okResponse v) rest s) ∧
        v.toInt = (wordOfBytes a.b0 a.b1).toInt / 16) ∧
    (a.status ≠ 0 →
      exec i s = .next (responded [failedRead s.params r a.status] (transportErrorResponse a.status) rest s))

/-- The write step of SET_LO_THRESH and SET_HI_THRESH: one unconditional write to register 2 or 3 of the left-justified
value, low four bits zero; the response is OK with value 0, or the failing write's status; everything else is unchanged
(44_threshold.md R201, R203). -/
def Obligations.ThresholdSetLeftJustifies : Prop :=
  ∀ (i : Instr) (r : Reg) (arg : Word) (s : State) (a : Answer) (rest : Answers),
    (i = .setLoThresh arg ∧ r = .lowThreshold ∨ i = .setHiThresh arg ∧ r = .highThreshold) →
    s.st = .thWr → s.draw = some (a, rest) →
    ∃ w : Word,
      exec i s =
        .next (responded [wrote s.params r (firstByte w) (secondByte w) a.status]
          (if a.status = 0 then okResponse 0 else transportErrorResponse a.status) rest s) ∧
      w.toNat = arg.toNat % 4096 * 16 ∧
      (-2048 ≤ arg.toInt ∧ arg.toInt ≤ 2047 → w.toInt = arg.toInt * 16)

/-- From a presented threshold word to its response: two steps and exactly one transport call, a read of the register by
the GET words 0x40 and 0x42, a write with no read before it by the SET words 0x41 and 0x43 (44_threshold.md R205;
40_sequencer.md R103). -/
def Obligations.ThresholdCommandsMakeOneCall : Prop :=
  ∀ (arg : Word) (s : State) (a : Answer) (rest : Answers), s.draw = some (a, rest) →
    (∀ op r, (op = 0x40#8 ∧ r = .lowThreshold ∨ op = 0x42#8 ∧ r = .highThreshold) → presents s op arg →
      steps 2 s =
        .next (if a.status = 0 then
            responded [okRead s.params r a.b0 a.b1]
              (okResponse ((thresholdDecode (wordOfBytes a.b0 a.b1)).signExtend 16)) rest { s with reqValid := false }
          else
            responded [failedRead s.params r a.status] (transportErrorResponse a.status) rest
              { s with reqValid := false })) ∧
    (∀ op r, (op = 0x41#8 ∧ r = .lowThreshold ∨ op = 0x43#8 ∧ r = .highThreshold) → presents s op arg →
      -2048 ≤ arg.toInt ∧ arg.toInt ≤ 2047 →
      steps 2 s =
        .next (responded
          [wrote s.params r (firstByte (arg.extractLsb' 0 12 ++ 0#4)) (secondByte (arg.extractLsb' 0 12 ++ 0#4)) a.status]
          (if a.status = 0 then okResponse 0 else transportErrorResponse a.status) rest { s with reqValid := false }))

/-! ### The sequencer -/

/-- With no reset coming, a presented word that decodes to a command is run by `exec` in its accept step, and a busy block
whose latches decode to a command runs that command's transaction by `exec`; the step adds nothing around it
(40_sequencer.md R100, R102, R106). -/
def Obligations.StepRunsTheDecodedCommand : Prop :=
  (∀ (s : State) (i : Instr), s.resetPin = .released → s.st = .idle → s.reqValid = true →
    decode s.reqCmd = .command i → step s = exec i s) ∧
  (∀ (s : State) (i : Instr) (op : BitVec 8) (arg : Word), s.resetPin = .released → s.st ≠ .idle →
    s.opL = some op → s.argL = some arg → decode (op ++ arg) = .command i → step s = exec i s)

/-- The accept step of a presented word whose command uses the transport latches `req_cmd[23:16]`, `req_cmd[15:0]` and, for
MEASURE, `req_fields`, clears `rsp_valid`, takes the request, and enters the command's first busy state; everything else
is unchanged (40_sequencer.md R102, R103). -/
def Obligations.AcceptLatchesThePresentedWord : Prop :=
  ∀ (s : State) (i : Instr) (first : Seq), s.resetPin = .released → s.st = .idle → s.reqValid = true →
    decode s.reqCmd = .command i → (busyPath i).head? = some first →
    step s =
      .next { s with
        st := first, reqValid := false, rspValid := false
        opL := some (s.reqCmd.extractLsb' 16 8), argL := some (s.reqCmd.extractLsb' 0 16)
        finL := if first = .mReq then some s.reqFields else s.finL }

/-- In `IDLE` with no command presented the block waits: the step changes nothing, or the caller presents its next command
on the port and nothing else changes (40_sequencer.md R100, R101; log 4 and log 6, the model's choice of the caller's
move). -/
def Obligations.IdleBlockWaitsForACommand : Prop :=
  ∀ s : State, s.resetPin = .released → s.st = .idle → s.reqValid = false →
    (s.callerQueue = [] → step s = .next s) ∧
    (∀ (r : Request) (rest : List Request), s.callerQueue = r :: rest →
      step s = .next { s with reqValid := true, reqCmd := r.cmd, reqFields := r.fields, callerQueue := rest })

/-- `refused` is sticky: no step clears it, a reset neither; and it is set only by an accept step whose word is refused
(10_state.md R25; 40_sequencer.md R105). -/
def Obligations.RefusedMarkIsSticky : Prop :=
  ∀ s t : State, step s = .next t →
    (s.refused = true → t.refused = true) ∧
    (s.refused = false → t.refused = true →
      s.st = .idle ∧ s.reqValid = true ∧ ∃ reason, decode s.reqCmd = .refuse reason)

/-- A busy step that answers a next state issues exactly one transport call, the one `st` names, and records it; a step in
`IDLE` issues none (10_state.md R22, R23). -/
def Obligations.BusyStepIssuesItsNamedCall : Prop :=
  ∀ s t : State, s.resetPin = .released → step s = .next t →
    (s.st ≠ .idle →
      ∃ c status bytes more, namedCall s = some c ∧ t.trace = s.trace ++ .call c status bytes :: more ∧
        callsOf more = []) ∧
    (s.st = .idle → callsOf t.trace = callsOf s.trace)

/-- Any failing transport call, in whatever busy state, ends the command at once: the response is TRANSPORT_ERROR with the
status unchanged and value 0, the block is in `IDLE`, no further call is issued, nothing else changes. The premise
`latchesFit` holds in every run (60_exceptions.md R221, R225). -/
def Obligations.FailingCallAbortsAnyCommand : Prop :=
  ∀ (s : State) (a : Answer) (rest : Answers), s.resetPin = .released → latchesFit s = true → s.st ≠ .idle →
    s.draw = some (a, rest) → a.status ≠ 0 →
    ∃ c, namedCall s = some c ∧
      step s = .next (responded [.call c a.status none] (transportErrorResponse a.status) rest s)

/-- A busy block whose transport does not answer has no step: it is stuck, whatever the command. The premise `latchesFit`
holds in every run (40_sequencer.md R107; that the stuck state is a named fault is the model's choice, log 3). -/
def Obligations.SilentTransportLeavesTheBlockStuck : Prop :=
  ∀ s : State, s.resetPin = .released → latchesFit s = true → s.st ≠ .idle → s.draw = none →
    step s = .fault .transportSilent

/-- In a state that meets the invariant a step always answers a next state, but where a busy block's transport is silent;
no step is refused by the model (40_sequencer.md R100, R107). That a waiting block's step answers a next state, where R100
gives it no step, is the model's choice, log 6, and so is the named fault of the silent transport, log 3. -/
def Obligations.OnlySilenceStopsARun : Prop :=
  ∀ s : State, Inv s →
    (∃ t, step s = .next t) ∨
      (step s = .fault .transportSilent ∧ s.resetPin = .released ∧ s.st ≠ .idle ∧ s.draw = none)

/-- A busy command goes back to `IDLE` exactly by ending with a response, and a run that has ended stays as it is. The
premise `latchesFit` holds in every run (40_sequencer.md R104, R108; that a waiting step answers the same state is log 6). -/
def Obligations.CommandsAndRunsEnd : Prop :=
  (∀ s t : State, s.resetPin = .released → latchesFit s = true → s.st ≠ .idle → step s = .next t →
    (t.st = .idle ↔ t.rspValid = true) ∧ (t.rspValid = true → t.commandEnded = true ∧ t.rspKind.isSome = true)) ∧
  (∀ s : State, s.resetPin = .released → s.runEnded = true → step s = .next s)

/-! ### Reset and the invariant -/

/-- The state after reset: `IDLE`, no response, no register of the block with a value, so that every read of a response
register by the caller is the fault of a read of no value, and `POLL_LIMIT` at its default (10_state.md R45; 00_scope.md
R7). -/
def Obligations.ResetLeavesTheSpecValues : Prop :=
  State.reset.st = .idle ∧ State.reset.rspValid = false ∧ State.reset.rspKind = none ∧ State.reset.rspValue = none ∧
  State.reset.rspFields = none ∧ State.reset.rspCode = none ∧ State.reset.opL = none ∧ State.reset.argL = none ∧
  State.reset.finL = none ∧ State.reset.wL = none ∧ State.reset.npoll = none ∧
  State.reset.params.pollLimit = none ∧ State.reset.readKind = .error .responseNoValue

/-- A block reset, at any moment: `IDLE`, no response, no register with a value, `refused`, the parameters and the handle
kept, no transport call issued; a call under way is recorded as cut (70_reset_and_hazards.md R240, R241; that the port,
the caller's queue and the answers stay is the model's choice, log 13). -/
def Obligations.BlockResetEndsTheCommand : Prop :=
  ∀ (s : State) (underWay : Bool), s.resetPin = .asserted underWay →
    step s =
      .next { s with
        st := .idle, opL := none, argL := none, finL := none, wL := none, npoll := none, rspValid := false
        rspKind := none, rspValue := none, rspFields := none, rspCode := none, resetPin := .released
        trace := s.trace ++ (if underWay then (namedCall s).toList.map Event.cut else []) }

/-- The invariant holds at reset. -/
def Obligations.InvariantHoldsAtReset : Prop := Inv State.reset

/-- Every step keeps the invariant: no latch holds a value in `IDLE` (10_state.md R20); a busy block has no response, no
command presented, is on its command's path and holds the latches its rules read (R21); a response present is one the
rules allow (30_encoding.md R89); fewer than `POLL_LIMIT` polls were busy (43_measure.md R182); status codes fit
`STATUS_W`; and every event of the trace is legal: two-byte calls with the handle, no write of the conversion register,
threshold words with zero padding (20_memory.md R52, R57, R59; 10_state.md R42). -/
def Obligations.EveryStepKeepsTheInvariant : Prop :=
  ∀ s t : State, Inv s → step s = .next t → Inv t

/-- The trace only grows, and every call a step adds, in any state whatever, is of two bytes, carries the handle unchanged,
and writes registers 1, 2 and 3 only (20_memory.md R52, R57, R59, R67). -/
def Obligations.EveryCallIsTwoBytesAndNeverWritesTheResult : Prop :=
  ∀ s t : State, step s = .next t →
    ∃ es, t.trace = s.trace ++ es ∧
      ∀ c ∈ callsOf es,
        c.length = 2 ∧ c.handle = s.params.handle ∧ (c.access ≠ .read → c.reg.id ≠ 0)

/-- What no command changes: the parameters and the handle, the command word and the fields on the port, the caller's later
commands, the reset input; the mark `refused` only rises; the answers are drawn one at a time from the front and the
trace only grows (00_scope.md R7; 10_state.md R23, R25; 20_memory.md R57, R67; 30_encoding.md R80). The caller's queue, the
answers still to come and the reset input are fields of the model's choice, log 4, log 2 and log 12. -/
def Obligations.EveryCommandKeepsTheEnvironment : Prop :=
  ∀ (i : Instr) (s t : State), exec i s = .next t →
    t.params = s.params ∧ t.reqCmd = s.reqCmd ∧ t.reqFields = s.reqFields ∧ t.callerQueue = s.callerQueue ∧
    t.resetPin = s.resetPin ∧ (s.refused = true → t.refused = true) ∧
    (if s.st = .idle then t.answers = s.answers else s.draw.map Prod.snd = some t.answers) ∧ s.trace <+: t.trace

/-! ### What a step does not depend on -/

/-- `POLL_DELAY` adds no step and changes no rule: a step with another delay is the same step (43_measure.md R182;
00_scope.md R7). -/
def Obligations.PollDelayIsReadByNoRule : Prop :=
  ∀ (s : State) (d : Nat),
    step { s with params := { s.params with pollDelay := d } } =
      nextMap (fun t => { t with params := { t.params with pollDelay := d } }) (step s)

/-- The bytes of a failed read, and of the answer to a write, are ignored: a step with other bytes in that answer is the
same step, response and trace (20_memory.md R50, R54, R67). That an answer carries bytes in these cases too, and that the
trace does not keep them, is the model's inference, log 19. -/
def Obligations.BytesOfAFailedReadAreIgnored : Prop :=
  ∀ (s : State) (a : Answer) (b0 b1 : Byte) (rest : Answers),
    s.resetPin = .released → s.st ≠ .idle → s.draw = some (a, rest) →
    (a.status ≠ 0 ∨ s.st = .setWr ∨ s.st = .mReq ∨ s.st = .thWr) →
    step { s with answers := .next { a with b0 := b0, b1 := b1 } rest } = step s

/-! ### The response port, the device's facts and the assembler -/

/-- While a response is present the caller reads the registers the command named; a register it did not name, and any
register while `rsp_valid = 0`, holds no value for the caller (10_state.md R24; log 11). -/
def Obligations.CallerReadsOnlyNamedResponses : Prop :=
  ∀ s : State,
    (s.rspValid = false →
      s.readKind = .error .responseNoValue ∧ s.readValue = .error .responseNoValue ∧
        s.readFields = .error .responseNoValue ∧ s.readCode = .error .responseNoValue) ∧
    (∀ es r rest,
      (responded es r rest s).readKind = .ok r.kind ∧ (responded es r rest s).readValue = .ok r.value ∧
      (r.fields = none → (responded es r rest s).readFields = .error .responseNoValue) ∧
      (∀ F, r.fields = some F → (responded es r rest s).readFields = .ok F) ∧
      (r.code = none → (responded es r rest s).readCode = .error .responseNoValue) ∧
      (∀ c, r.code = some c → (responded es r rest s).readCode = .ok c)) ∧
    RspKind.ok.number = 0 ∧ RspKind.transportError.number = 1 ∧ RspKind.timeout.number = 2

/-- The device's configuration register resets to the word of the listed fields, `0x8583` (10_state.md R43). -/
def Obligations.DeviceResetWordIsTheListedFields : Prop :=
  deviceResetWord .config = some (encodeConfig deviceResetFields) ∧
  encodeConfig deviceResetFields = 0x8583 ∧ singleShot deviceResetFields = true ∧
  channelDifferential deviceResetFields = true ∧ comparatorDisabled deviceResetFields = true ∧
  windowComparator deviceResetFields = false ∧ gainMeaningful deviceResetFields = true

/-- GET and SET lines assemble to the opcode of their field and the line's value, threshold lines to the two's complement
of theirs, and a value that does not fit has no assembly (30_encoding.md R90). -/
def Obligations.AssembleGivesTheOpcodes : Prop :=
  ∀ (port : ConfigFields) (f : Field) (v : Nat) (t : Int),
    assemble port (.get f) = some [⟨BitVec.ofNat 8 (0x10 + f.index) ++ 0#16, port⟩] ∧
    assemble port (.set f v) =
      (if v < 2 ^ f.width then some [⟨BitVec.ofNat 8 (0x20 + f.index) ++ BitVec.ofNat 16 v, port⟩] else none) ∧
    assemble port (.setThLo t) =
      (if -2048 ≤ t ∧ t ≤ 2047 then some [⟨0x41#8 ++ BitVec.ofInt 16 t, port⟩] else none) ∧
    assemble port (.setThHi t) =
      (if -2048 ≤ t ∧ t ≤ 2047 then some [⟨0x43#8 ++ BitVec.ofInt 16 t, port⟩] else none) ∧
    assemble port (.thEncode t) =
      (if -2048 ≤ t ∧ t ≤ 2047 then some [⟨0x52#8 ++ BitVec.ofInt 16 t, port⟩] else none)

/-- No command of an assembled line is refused, whatever the line (30_encoding.md R83, R90, R91). -/
def Obligations.AssembledCommandsAreAdmitted : Prop :=
  ∀ (port : ConfigFields) (line : AsmLine) (cmds : List Request), assemble port line = some cmds →
    ∀ r ∈ cmds, ∃ i, decode r.cmd = .command i

/-- The lines of the programs P1 to P4 and of the worked examples assemble to the words the spec gives them, and a line
whose operand does not fit to none (30_encoding.md R90, R91; 95_test_vectors.md L1, L3). -/
def Obligations.AssemblerTextOfTheExamples : Prop :=
  ∀ port : ConfigFields,
    assembleText port "SET.gain #1 ; a comment" = some [⟨0x220001, port⟩] ∧
    assembleText port "SET.data_rate #7" = some [⟨0x240007, port⟩] ∧
    assembleText port "MEASURE.W #0x83E3" = some [⟨0x300000, decodeConfig 0x83E3⟩] ∧
    assembleText port "SETTH.LO #-100" = some [⟨0x41FF9C, port⟩] ∧
    assembleText port "SETTH #-100, #1000" = some [⟨0x41FF9C, port⟩, ⟨0x4303E8, port⟩] ∧
    assembleText port "GET.comp_mode" = some [⟨0x150000, port⟩] ∧
    assembleText port "GETTH.LO" = some [⟨0x400000, port⟩] ∧
    assembleText port "TH.ENCODE #-2048" = some [⟨0x52F800, port⟩] ∧
    assembleText port "RES.DECODE #0x1230" = some [⟨0x541230, port⟩] ∧
    assembleText port "SET.gain #8" = none

/-- The commands of the pseudo-instruction `CFG.ENCODE.W #word`, presented by the caller, make the block respond with
`word` (30_encoding.md R91). -/
def Obligations.CfgEncodeWordRespondsWithIt : Prop :=
  ∀ (word : Word) (port : ConfigFields) (s : State) (cmds later : List Request),
    assemble port (.cfgEncodeW word) = some cmds → s.callerQueue = cmds ++ later →
    s.resetPin = .released → s.st = .idle → s.reqValid = false →
    ∃ t, steps 2 s = .next t ∧ t.readValue = .ok word ∧ t.readKind = .ok .ok ∧ t.callerQueue = later ∧
      t.trace = s.trace ++ [.response (okResponse word)]

/-- The commands of `SETTH #lo, #hi`, for any two thresholds in range and in either order, make exactly two transport
writes, the low register first, with no cross-check (30_encoding.md R91; 10_state.md R42). -/
def Obligations.SetThWritesBothThresholds : Prop :=
  ∀ (lo hi : Int) (port : ConfigFields) (s : State) (cmds later : List Request) (a b : Answer) (rest : Answers),
    -2048 ≤ lo ∧ lo ≤ 2047 → -2048 ≤ hi ∧ hi ≤ 2047 →
    assemble port (.setTh lo hi) = some cmds → s.callerQueue = cmds ++ later →
    s.resetPin = .released → s.st = .idle → s.reqValid = false →
    s.gives [a, b] rest → a.status = 0 → b.status = 0 →
    ∃ (t : State) (l h : Word),
      steps 6 s = .next t ∧ l.toInt = lo * 16 ∧ h.toInt = hi * 16 ∧
      t.trace = s.trace ++
        [wrote s.params .lowThreshold (firstByte l) (secondByte l) 0, .response (okResponse 0),
          wrote s.params .highThreshold (firstByte h) (secondByte h) 0, .response (okResponse 0)] ∧
      t.st = .idle ∧ t.callerQueue = later ∧ t.answers = rest
end

