-- ==== Sys2Proof/Laws/Decode.lean ====
section
/-! SUPPORT. Decoding and encoding: the halves of a command word, and what decoding can answer. -/

namespace Sys2Proof

@[simp] theorem cmdOp_append (op : BitVec 8) (arg : Word) : cmdOp (op ++ arg) = op :=
  BitVec.extractLsb'_append_eq_left

@[simp] theorem cmdArg_append (op : BitVec 8) (arg : Word) : cmdArg (op ++ arg) = arg :=
  BitVec.extractLsb'_append_eq_right

@[simp] theorem cmdOp_encode (i : Instr) : cmdOp (encode i) = opcode i := cmdOp_append _ _

@[simp] theorem cmdArg_encode (i : Instr) : cmdArg (encode i) = i.argument := cmdArg_append _ _

/-- A command word is its two halves. -/
theorem cmd_halves (w : Cmd) : cmdOp w ++ cmdArg w = w := by
  ext k hk
  simp only [cmdOp, cmdArg, BitVec.getElem_append, BitVec.getElem_extractLsb']
  split <;> rw [← BitVec.getLsbD_eq_getElem] <;> congr 1 <;> omega

theorem decode_append (op : BitVec 8) (arg : Word) : decode (op ++ arg) = decodeParts op arg := by
  simp [decode]

/-- A SET word decodes to its command exactly when its argument fits the field. -/
theorem decodeSet_command {f : Field} {arg : Word} {i : Instr} :
    decodeSet f arg = .command i ↔ argFits f arg = true ∧ setInstr f arg = i := by
  unfold decodeSet
  split <;> simp_all

/-- A word of format S decodes to its command exactly when its argument is in range. -/
theorem decodeSigned_command {mk : Word → Instr} {arg : Word} {i : Instr} :
    decodeSigned mk arg = .command i ↔ thresholdFits arg = true ∧ mk arg = i := by
  unfold decodeSigned
  split <;> simp_all

@[simp] theorem argument_getInstr (f : Field) (arg : Word) : (getInstr f arg).argument = arg := by cases f <;> rfl

@[simp] theorem argument_setInstr (f : Field) (arg : Word) : (setInstr f arg).argument = arg := by cases f <;> rfl

@[simp] theorem format_getInstr (f : Field) (arg : Word) : (getInstr f arg).format = .none := by cases f <;> rfl

@[simp] theorem format_setInstr (f : Field) (arg : Word) : (setInstr f arg).format = .value f := by cases f <;> rfl

/-- The opcode of GET of field `i` is `0x10 + i` (30_encoding.md R85). -/
theorem opcode_getInstr (f : Field) (arg : Word) : (opcode (getInstr f arg)).toNat = 0x10 + f.index := by
  cases f <;> rfl

/-- The opcode of SET of field `i` is `0x20 + i` (30_encoding.md R85). -/
theorem opcode_setInstr (f : Field) (arg : Word) : (opcode (setInstr f arg)).toNat = 0x20 + f.index := by
  cases f <;> rfl

end Sys2Proof
end

