-- ==== Sys2Proof/Laws/State.lean ====
section
/-! SUPPORT. What each field of State is after each update of Machine/Ops.lean, one lemma per field per update, so that
no later proof unfolds a record update. -/

namespace Sys2Proof.Machine

open Sys2Proof

variable (s : State)

/-! ### `takeRequest` -/

@[simp] theorem takeRequest_st : (takeRequest s).st = s.st := rfl
@[simp] theorem takeRequest_opL : (takeRequest s).opL = s.opL := rfl
@[simp] theorem takeRequest_argL : (takeRequest s).argL = s.argL := rfl
@[simp] theorem takeRequest_finL : (takeRequest s).finL = s.finL := rfl
@[simp] theorem takeRequest_wL : (takeRequest s).wL = s.wL := rfl
@[simp] theorem takeRequest_npoll : (takeRequest s).npoll = s.npoll := rfl
@[simp] theorem takeRequest_rspValid : (takeRequest s).rspValid = false := rfl
@[simp] theorem takeRequest_rspKind : (takeRequest s).rspKind = s.rspKind := rfl
@[simp] theorem takeRequest_rspValue : (takeRequest s).rspValue = s.rspValue := rfl
@[simp] theorem takeRequest_rspFields : (takeRequest s).rspFields = s.rspFields := rfl
@[simp] theorem takeRequest_rspCode : (takeRequest s).rspCode = s.rspCode := rfl
@[simp] theorem takeRequest_refused : (takeRequest s).refused = s.refused := rfl
@[simp] theorem takeRequest_refusalReason : (takeRequest s).refusalReason = s.refusalReason := rfl
@[simp] theorem takeRequest_reqValid : (takeRequest s).reqValid = false := rfl
@[simp] theorem takeRequest_reqCmd : (takeRequest s).reqCmd = s.reqCmd := rfl
@[simp] theorem takeRequest_reqFields : (takeRequest s).reqFields = s.reqFields := rfl
@[simp] theorem takeRequest_callerQueue : (takeRequest s).callerQueue = s.callerQueue := rfl
@[simp] theorem takeRequest_answers : (takeRequest s).answers = s.answers := rfl
@[simp] theorem takeRequest_resetPin : (takeRequest s).resetPin = s.resetPin := rfl
@[simp] theorem takeRequest_params : (takeRequest s).params = s.params := rfl
@[simp] theorem takeRequest_trace : (takeRequest s).trace = s.trace := rfl

/-! ### `accept` -/

@[simp] theorem accept_st (i : Instr) (first : Seq) : (accept i first s).st = first := rfl
@[simp] theorem accept_opL (i : Instr) (first : Seq) : (accept i first s).opL = some (opcode i) := rfl
@[simp] theorem accept_argL (i : Instr) (first : Seq) : (accept i first s).argL = some i.argument := rfl
@[simp] theorem accept_finL (i : Instr) (first : Seq) : (accept i first s).finL = s.finL := rfl
@[simp] theorem accept_wL (i : Instr) (first : Seq) : (accept i first s).wL = s.wL := rfl
@[simp] theorem accept_npoll (i : Instr) (first : Seq) : (accept i first s).npoll = s.npoll := rfl
@[simp] theorem accept_rspValid (i : Instr) (first : Seq) : (accept i first s).rspValid = false := rfl
@[simp] theorem accept_rspKind (i : Instr) (first : Seq) : (accept i first s).rspKind = s.rspKind := rfl
@[simp] theorem accept_rspValue (i : Instr) (first : Seq) : (accept i first s).rspValue = s.rspValue := rfl
@[simp] theorem accept_rspFields (i : Instr) (first : Seq) : (accept i first s).rspFields = s.rspFields := rfl
@[simp] theorem accept_rspCode (i : Instr) (first : Seq) : (accept i first s).rspCode = s.rspCode := rfl
@[simp] theorem accept_refused (i : Instr) (first : Seq) : (accept i first s).refused = s.refused := rfl
@[simp] theorem accept_refusalReason (i : Instr) (first : Seq) :
    (accept i first s).refusalReason = s.refusalReason := rfl
@[simp] theorem accept_reqValid (i : Instr) (first : Seq) : (accept i first s).reqValid = false := rfl
@[simp] theorem accept_reqCmd (i : Instr) (first : Seq) : (accept i first s).reqCmd = s.reqCmd := rfl
@[simp] theorem accept_reqFields (i : Instr) (first : Seq) : (accept i first s).reqFields = s.reqFields := rfl
@[simp] theorem accept_callerQueue (i : Instr) (first : Seq) : (accept i first s).callerQueue = s.callerQueue := rfl
@[simp] theorem accept_answers (i : Instr) (first : Seq) : (accept i first s).answers = s.answers := rfl
@[simp] theorem accept_resetPin (i : Instr) (first : Seq) : (accept i first s).resetPin = s.resetPin := rfl
@[simp] theorem accept_params (i : Instr) (first : Seq) : (accept i first s).params = s.params := rfl
@[simp] theorem accept_trace (i : Instr) (first : Seq) : (accept i first s).trace = s.trace := rfl

/-! ### `record` -/

@[simp] theorem record_st (e : Event) : (record e s).st = s.st := rfl
@[simp] theorem record_opL (e : Event) : (record e s).opL = s.opL := rfl
@[simp] theorem record_argL (e : Event) : (record e s).argL = s.argL := rfl
@[simp] theorem record_finL (e : Event) : (record e s).finL = s.finL := rfl
@[simp] theorem record_wL (e : Event) : (record e s).wL = s.wL := rfl
@[simp] theorem record_npoll (e : Event) : (record e s).npoll = s.npoll := rfl
@[simp] theorem record_rspValid (e : Event) : (record e s).rspValid = s.rspValid := rfl
@[simp] theorem record_rspKind (e : Event) : (record e s).rspKind = s.rspKind := rfl
@[simp] theorem record_rspValue (e : Event) : (record e s).rspValue = s.rspValue := rfl
@[simp] theorem record_rspFields (e : Event) : (record e s).rspFields = s.rspFields := rfl
@[simp] theorem record_rspCode (e : Event) : (record e s).rspCode = s.rspCode := rfl
@[simp] theorem record_refused (e : Event) : (record e s).refused = s.refused := rfl
@[simp] theorem record_refusalReason (e : Event) : (record e s).refusalReason = s.refusalReason := rfl
@[simp] theorem record_reqValid (e : Event) : (record e s).reqValid = s.reqValid := rfl
@[simp] theorem record_reqCmd (e : Event) : (record e s).reqCmd = s.reqCmd := rfl
@[simp] theorem record_reqFields (e : Event) : (record e s).reqFields = s.reqFields := rfl
@[simp] theorem record_callerQueue (e : Event) : (record e s).callerQueue = s.callerQueue := rfl
@[simp] theorem record_answers (e : Event) : (record e s).answers = s.answers := rfl
@[simp] theorem record_resetPin (e : Event) : (record e s).resetPin = s.resetPin := rfl
@[simp] theorem record_params (e : Event) : (record e s).params = s.params := rfl
@[simp] theorem record_trace (e : Event) : (record e s).trace = s.trace ++ [e] := rfl

/-! ### `refuse` -/

@[simp] theorem refuse_st (r : RefuseReason) : (refuse r s).st = s.st := rfl
@[simp] theorem refuse_opL (r : RefuseReason) : (refuse r s).opL = s.opL := rfl
@[simp] theorem refuse_argL (r : RefuseReason) : (refuse r s).argL = s.argL := rfl
@[simp] theorem refuse_finL (r : RefuseReason) : (refuse r s).finL = s.finL := rfl
@[simp] theorem refuse_wL (r : RefuseReason) : (refuse r s).wL = s.wL := rfl
@[simp] theorem refuse_npoll (r : RefuseReason) : (refuse r s).npoll = s.npoll := rfl
@[simp] theorem refuse_rspValid (r : RefuseReason) : (refuse r s).rspValid = false := rfl
@[simp] theorem refuse_rspKind (r : RefuseReason) : (refuse r s).rspKind = s.rspKind := rfl
@[simp] theorem refuse_rspValue (r : RefuseReason) : (refuse r s).rspValue = s.rspValue := rfl
@[simp] theorem refuse_rspFields (r : RefuseReason) : (refuse r s).rspFields = s.rspFields := rfl
@[simp] theorem refuse_rspCode (r : RefuseReason) : (refuse r s).rspCode = s.rspCode := rfl
@[simp] theorem refuse_refused (r : RefuseReason) : (refuse r s).refused = true := rfl
@[simp] theorem refuse_refusalReason (r : RefuseReason) : (refuse r s).refusalReason = some r := rfl
@[simp] theorem refuse_reqValid (r : RefuseReason) : (refuse r s).reqValid = false := rfl
@[simp] theorem refuse_reqCmd (r : RefuseReason) : (refuse r s).reqCmd = s.reqCmd := rfl
@[simp] theorem refuse_reqFields (r : RefuseReason) : (refuse r s).reqFields = s.reqFields := rfl
@[simp] theorem refuse_callerQueue (r : RefuseReason) : (refuse r s).callerQueue = s.callerQueue := rfl
@[simp] theorem refuse_answers (r : RefuseReason) : (refuse r s).answers = s.answers := rfl
@[simp] theorem refuse_resetPin (r : RefuseReason) : (refuse r s).resetPin = s.resetPin := rfl
@[simp] theorem refuse_params (r : RefuseReason) : (refuse r s).params = s.params := rfl
@[simp] theorem refuse_trace (r : RefuseReason) : (refuse r s).trace = s.trace := rfl

/-! ### `answered` -/

@[simp] theorem answered_st (c : Call) (a : Answer) (rest : Answers) : (answered c a rest s).st = s.st := rfl
@[simp] theorem answered_opL (c : Call) (a : Answer) (rest : Answers) : (answered c a rest s).opL = s.opL := rfl
@[simp] theorem answered_argL (c : Call) (a : Answer) (rest : Answers) :
    (answered c a rest s).argL = s.argL := rfl
@[simp] theorem answered_finL (c : Call) (a : Answer) (rest : Answers) :
    (answered c a rest s).finL = s.finL := rfl
@[simp] theorem answered_wL (c : Call) (a : Answer) (rest : Answers) : (answered c a rest s).wL = s.wL := rfl
@[simp] theorem answered_npoll (c : Call) (a : Answer) (rest : Answers) :
    (answered c a rest s).npoll = s.npoll := rfl
@[simp] theorem answered_rspValid (c : Call) (a : Answer) (rest : Answers) :
    (answered c a rest s).rspValid = s.rspValid := rfl
@[simp] theorem answered_rspKind (c : Call) (a : Answer) (rest : Answers) :
    (answered c a rest s).rspKind = s.rspKind := rfl
@[simp] theorem answered_rspValue (c : Call) (a : Answer) (rest : Answers) :
    (answered c a rest s).rspValue = s.rspValue := rfl
@[simp] theorem answered_rspFields (c : Call) (a : Answer) (rest : Answers) :
    (answered c a rest s).rspFields = s.rspFields := rfl
@[simp] theorem answered_rspCode (c : Call) (a : Answer) (rest : Answers) :
    (answered c a rest s).rspCode = s.rspCode := rfl
@[simp] theorem answered_refused (c : Call) (a : Answer) (rest : Answers) :
    (answered c a rest s).refused = s.refused := rfl
@[simp] theorem answered_refusalReason (c : Call) (a : Answer) (rest : Answers) :
    (answered c a rest s).refusalReason = s.refusalReason := rfl
@[simp] theorem answered_reqValid (c : Call) (a : Answer) (rest : Answers) :
    (answered c a rest s).reqValid = s.reqValid := rfl
@[simp] theorem answered_reqCmd (c : Call) (a : Answer) (rest : Answers) :
    (answered c a rest s).reqCmd = s.reqCmd := rfl
@[simp] theorem answered_reqFields (c : Call) (a : Answer) (rest : Answers) :
    (answered c a rest s).reqFields = s.reqFields := rfl
@[simp] theorem answered_callerQueue (c : Call) (a : Answer) (rest : Answers) :
    (answered c a rest s).callerQueue = s.callerQueue := rfl
@[simp] theorem answered_answers (c : Call) (a : Answer) (rest : Answers) :
    (answered c a rest s).answers = rest := rfl
@[simp] theorem answered_resetPin (c : Call) (a : Answer) (rest : Answers) :
    (answered c a rest s).resetPin = s.resetPin := rfl
@[simp] theorem answered_params (c : Call) (a : Answer) (rest : Answers) :
    (answered c a rest s).params = s.params := rfl
@[simp] theorem answered_trace (c : Call) (a : Answer) (rest : Answers) :
    (answered c a rest s).trace = s.trace ++ [callEvent c a] := rfl

/-! ### `complete` -/

@[simp] theorem complete_st (k : RspKind) (v : Word) (F : Option ConfigFields) (c : Nat) :
    (complete k v F c s).st = .idle := rfl
@[simp] theorem complete_opL (k : RspKind) (v : Word) (F : Option ConfigFields) (c : Nat) :
    (complete k v F c s).opL = none := rfl
@[simp] theorem complete_argL (k : RspKind) (v : Word) (F : Option ConfigFields) (c : Nat) :
    (complete k v F c s).argL = none := rfl
@[simp] theorem complete_finL (k : RspKind) (v : Word) (F : Option ConfigFields) (c : Nat) :
    (complete k v F c s).finL = none := rfl
@[simp] theorem complete_wL (k : RspKind) (v : Word) (F : Option ConfigFields) (c : Nat) :
    (complete k v F c s).wL = none := rfl
@[simp] theorem complete_npoll (k : RspKind) (v : Word) (F : Option ConfigFields) (c : Nat) :
    (complete k v F c s).npoll = none := rfl
@[simp] theorem complete_rspValid (k : RspKind) (v : Word) (F : Option ConfigFields) (c : Nat) :
    (complete k v F c s).rspValid = true := rfl
@[simp] theorem complete_rspKind (k : RspKind) (v : Word) (F : Option ConfigFields) (c : Nat) :
    (complete k v F c s).rspKind = some k := rfl
@[simp] theorem complete_rspValue (k : RspKind) (v : Word) (F : Option ConfigFields) (c : Nat) :
    (complete k v F c s).rspValue = some v := rfl
@[simp] theorem complete_rspFields (k : RspKind) (v : Word) (F : Option ConfigFields) (c : Nat) :
    (complete k v F c s).rspFields = F := rfl
@[simp] theorem complete_rspCode (k : RspKind) (v : Word) (F : Option ConfigFields) (c : Nat) :
    (complete k v F c s).rspCode = if k = .ok then none else some c := rfl
@[simp] theorem complete_refused (k : RspKind) (v : Word) (F : Option ConfigFields) (c : Nat) :
    (complete k v F c s).refused = s.refused := rfl
@[simp] theorem complete_refusalReason (k : RspKind) (v : Word) (F : Option ConfigFields) (c : Nat) :
    (complete k v F c s).refusalReason = s.refusalReason := rfl
@[simp] theorem complete_reqValid (k : RspKind) (v : Word) (F : Option ConfigFields) (c : Nat) :
    (complete k v F c s).reqValid = s.reqValid := rfl
@[simp] theorem complete_reqCmd (k : RspKind) (v : Word) (F : Option ConfigFields) (c : Nat) :
    (complete k v F c s).reqCmd = s.reqCmd := rfl
@[simp] theorem complete_reqFields (k : RspKind) (v : Word) (F : Option ConfigFields) (c : Nat) :
    (complete k v F c s).reqFields = s.reqFields := rfl
@[simp] theorem complete_callerQueue (k : RspKind) (v : Word) (F : Option ConfigFields) (c : Nat) :
    (complete k v F c s).callerQueue = s.callerQueue := rfl
@[simp] theorem complete_answers (k : RspKind) (v : Word) (F : Option ConfigFields) (c : Nat) :
    (complete k v F c s).answers = s.answers := rfl
@[simp] theorem complete_resetPin (k : RspKind) (v : Word) (F : Option ConfigFields) (c : Nat) :
    (complete k v F c s).resetPin = s.resetPin := rfl
@[simp] theorem complete_params (k : RspKind) (v : Word) (F : Option ConfigFields) (c : Nat) :
    (complete k v F c s).params = s.params := rfl
@[simp] theorem complete_trace (k : RspKind) (v : Word) (F : Option ConfigFields) (c : Nat) :
    (complete k v F c s).trace = s.trace ++
      [.response { kind := k, value := v, fields := F, code := if k = .ok then none else some c }] := rfl

/-! ### `blockReset` -/

@[simp] theorem blockReset_st (u : Bool) : (blockReset u s).st = .idle := rfl
@[simp] theorem blockReset_opL (u : Bool) : (blockReset u s).opL = none := rfl
@[simp] theorem blockReset_argL (u : Bool) : (blockReset u s).argL = none := rfl
@[simp] theorem blockReset_finL (u : Bool) : (blockReset u s).finL = none := rfl
@[simp] theorem blockReset_wL (u : Bool) : (blockReset u s).wL = none := rfl
@[simp] theorem blockReset_npoll (u : Bool) : (blockReset u s).npoll = none := rfl
@[simp] theorem blockReset_rspValid (u : Bool) : (blockReset u s).rspValid = false := rfl
@[simp] theorem blockReset_rspKind (u : Bool) : (blockReset u s).rspKind = none := rfl
@[simp] theorem blockReset_rspValue (u : Bool) : (blockReset u s).rspValue = none := rfl
@[simp] theorem blockReset_rspFields (u : Bool) : (blockReset u s).rspFields = none := rfl
@[simp] theorem blockReset_rspCode (u : Bool) : (blockReset u s).rspCode = none := rfl
@[simp] theorem blockReset_refused (u : Bool) : (blockReset u s).refused = s.refused := rfl
@[simp] theorem blockReset_refusalReason (u : Bool) : (blockReset u s).refusalReason = s.refusalReason := rfl
@[simp] theorem blockReset_reqValid (u : Bool) : (blockReset u s).reqValid = s.reqValid := rfl
@[simp] theorem blockReset_reqCmd (u : Bool) : (blockReset u s).reqCmd = s.reqCmd := rfl
@[simp] theorem blockReset_reqFields (u : Bool) : (blockReset u s).reqFields = s.reqFields := rfl
@[simp] theorem blockReset_callerQueue (u : Bool) : (blockReset u s).callerQueue = s.callerQueue := rfl
@[simp] theorem blockReset_answers (u : Bool) : (blockReset u s).answers = s.answers := rfl
@[simp] theorem blockReset_resetPin (u : Bool) : (blockReset u s).resetPin = .released := rfl
@[simp] theorem blockReset_params (u : Bool) : (blockReset u s).params = s.params := rfl
@[simp] theorem blockReset_trace (u : Bool) : (blockReset u s).trace = s.trace ++ cutEvents u s := rfl

/-! ### The named completions -/

@[simp] theorem completeOk_eq (v : Word) : completeOk v s = complete .ok v none 0 s := rfl
@[simp] theorem abort_eq (c : Nat) : abort c s = complete .transportError 0x0000 none c s := rfl
@[simp] theorem timeout_eq : timeout s = complete .timeout 0x0000 none 0 s := rfl

/-! ### The caller's move -/

theorem callerMove_waits (h : s.callerQueue = []) : callerMove s = s := by simp [callerMove, h]

theorem callerMove_presents {r : Request} {rest : List Request} (h : s.callerQueue = r :: rest) :
    callerMove s = { s with reqValid := true, reqCmd := r.cmd, reqFields := r.fields, callerQueue := rest } := by
  simp [callerMove, h]

end Sys2Proof.Machine
end

