-- ==== Sys2Proof/Laws/Ops.lean ====
section
/-! SUPPORT. What each shared operation can answer: a transport call is answered, fails or is never answered, and nothing
else. -/

namespace Sys2Proof.Machine

open Sys2Proof

variable {s s' : State} {r : Reg} {k : Word → State → Result} {j : State → Result} {v : Word} {a : Answer}
  {rest : Answers}

/-! ### The transport's answers -/

@[simp] theorem draw_silent (w : Nat) : Answers.silent.draw w = none := rfl

@[simp] theorem draw_forever (w : Nat) (a : Answer) : (Answers.forever a).draw w = some (a, .forever a) := rfl

@[simp] theorem draw_next (w : Nat) (a : Answer) (rest : Answers) : (Answers.next a rest).draw w = some (a, rest) := rfl

@[simp] theorem accept_draw (i : Instr) (first : Seq) : (accept i first s).draw = s.draw := rfl

/-- A free sequence answers or is silent; an answer is one of its draws, and it goes on with the next. -/
theorem draw_drawn {w stream n : Nat} {a : Answer} {rest : Answers}
    (h : (Answers.drawn stream n).draw w = some (a, rest)) : a.status < 2 ^ w ∧ rest = .drawn stream (n + 1) := by
  simp only [Answers.draw] at h
  split at h
  · cases h; exact ⟨BitVec.isLt _, rfl⟩
  · cases h

/-! ### Reads -/

theorem memRead_silent (h : s.draw = none) : memRead r k s = .fault .transportSilent := by
  simp [memRead, h]

theorem memRead_ok (h : s.draw = some (a, rest)) (ha : a.status = 0) :
    memRead r k s = k (wordOfBytes a.b0 a.b1) (answered (readCall r s) a rest s) := by
  simp [memRead, h, ha]

theorem memRead_fails (h : s.draw = some (a, rest)) (ha : a.status ≠ 0) :
    memRead r k s = .next (abort a.status (answered (readCall r s) a rest s)) := by
  simp [memRead, h, ha]

/-- A read step that answers a next state had an answer, which succeeded or failed. -/
theorem memRead_next (h : memRead r k s = .next s') :
    ∃ a rest, s.draw = some (a, rest) ∧
      ((a.status = 0 ∧ k (wordOfBytes a.b0 a.b1) (answered (readCall r s) a rest s) = .next s') ∨
        (a.status ≠ 0 ∧ s' = abort a.status (answered (readCall r s) a rest s))) := by
  cases hs : s.draw with
  | none => simp [memRead_silent hs] at h
  | some d =>
    obtain ⟨a, rest⟩ := d
    refine ⟨a, rest, rfl, ?_⟩
    by_cases ha : a.status = 0
    · exact .inl ⟨ha, by rwa [memRead_ok hs ha] at h⟩
    · rw [memRead_fails hs ha] at h
      exact .inr ⟨ha, by simpa using h.symm⟩

/-- A read step stops only where the transport does not answer, or where what follows it stops. -/
theorem memRead_fault {e : Fault} (h : memRead r k s = .fault e) :
    e = .transportSilent ∨ ∃ w t, k w t = .fault e := by
  cases hs : s.draw with
  | none => exact .inl (by simpa [memRead_silent hs] using h.symm)
  | some d =>
    obtain ⟨a, rest⟩ := d
    by_cases ha : a.status = 0
    · rw [memRead_ok hs ha] at h
      exact .inr ⟨_, _, h⟩
    · simp [memRead_fails hs ha] at h

/-! ### Writes -/

theorem memWrite_silent (h : s.draw = none) : memWrite r v j s = .fault .transportSilent := by
  simp [memWrite, h]

theorem memWrite_ok (h : s.draw = some (a, rest)) (ha : a.status = 0) :
    memWrite r v j s = j (answered (writeCall r v s) a rest s) := by
  simp [memWrite, h, ha]

theorem memWrite_fails (h : s.draw = some (a, rest)) (ha : a.status ≠ 0) :
    memWrite r v j s = .next (abort a.status (answered (writeCall r v s) a rest s)) := by
  simp [memWrite, h, ha]

/-- A write step that answers a next state had an answer, which succeeded or failed. -/
theorem memWrite_next (h : memWrite r v j s = .next s') :
    ∃ a rest, s.draw = some (a, rest) ∧
      ((a.status = 0 ∧ j (answered (writeCall r v s) a rest s) = .next s') ∨
        (a.status ≠ 0 ∧ s' = abort a.status (answered (writeCall r v s) a rest s))) := by
  cases hs : s.draw with
  | none => simp [memWrite_silent hs] at h
  | some d =>
    obtain ⟨a, rest⟩ := d
    refine ⟨a, rest, rfl, ?_⟩
    by_cases ha : a.status = 0
    · exact .inl ⟨ha, by rwa [memWrite_ok hs ha] at h⟩
    · rw [memWrite_fails hs ha] at h
      exact .inr ⟨ha, by simpa using h.symm⟩

/-! ### Events -/

theorem callEvent_read_ok (ha : a.status = 0) :
    callEvent (readCall r s) a = .call (readCall r s) 0 (some (a.b0, a.b1)) := by
  simp [callEvent, readCall, ha]

theorem callEvent_read_fails (ha : a.status ≠ 0) :
    callEvent (readCall r s) a = .call (readCall r s) a.status none := by
  simp [callEvent, readCall, ha]

theorem callEvent_write : callEvent (writeCall r v s) a = .call (writeCall r v s) a.status none := rfl

/-! ### Latches -/

/-- After an accept step the latches hold the accepted command, if its word decodes to it. -/
theorem latchedInstr_accept {i : Instr} (first : Seq) (h : decodeParts (opcode i) i.argument = .command i) :
    latchedInstr (accept i first s) = some i := by
  simp [latchedInstr, h]

end Sys2Proof.Machine
end

