-- ==== Sys2Proof/Laws/Step.lean ====
section
/-! SUPPORT. The commands of one family are one procedure, and the cases of a step. -/

namespace Sys2Proof.Machine

open Sys2Proof

@[simp] theorem exec_getInstr (f : Field) (arg : Word) (s : State) : exec (getInstr f arg) s = getField f arg s := by
  cases f <;> rfl

@[simp] theorem exec_setInstr (f : Field) (arg : Word) (s : State) : exec (setInstr f arg) s = setField f arg s := by
  cases f <;> rfl

/-- Every command is a GET or SET of a field, MEASURE, a threshold command or a pure command. -/
theorem instr_families (i : Instr) :
    (∃ f a, i = getInstr f a) ∨ (∃ f a, i = setInstr f a) ∨ (∃ a, i = .measure a) ∨
      (∃ a, i = .getLoThresh a ∨ i = .getHiThresh a) ∨ (∃ a, i = .setLoThresh a ∨ i = .setHiThresh a) ∨
      (∃ a, i = .cfgEncode a ∨ i = .cfgDecode a ∨ i = .thEncode a ∨ i = .thDecode a ∨ i = .resDecode a) := by
  cases i with
  | getStatus a => exact .inl ⟨.status, a, rfl⟩
  | getChannel a => exact .inl ⟨.channel, a, rfl⟩
  | getGain a => exact .inl ⟨.gain, a, rfl⟩
  | getMode a => exact .inl ⟨.mode, a, rfl⟩
  | getDataRate a => exact .inl ⟨.dataRate, a, rfl⟩
  | getCompMode a => exact .inl ⟨.compMode, a, rfl⟩
  | getCompPolarity a => exact .inl ⟨.compPolarity, a, rfl⟩
  | getCompLatch a => exact .inl ⟨.compLatch, a, rfl⟩
  | getCompQueue a => exact .inl ⟨.compQueue, a, rfl⟩
  | setStatus a => exact .inr (.inl ⟨.status, a, rfl⟩)
  | setChannel a => exact .inr (.inl ⟨.channel, a, rfl⟩)
  | setGain a => exact .inr (.inl ⟨.gain, a, rfl⟩)
  | setMode a => exact .inr (.inl ⟨.mode, a, rfl⟩)
  | setDataRate a => exact .inr (.inl ⟨.dataRate, a, rfl⟩)
  | setCompMode a => exact .inr (.inl ⟨.compMode, a, rfl⟩)
  | setCompPolarity a => exact .inr (.inl ⟨.compPolarity, a, rfl⟩)
  | setCompLatch a => exact .inr (.inl ⟨.compLatch, a, rfl⟩)
  | setCompQueue a => exact .inr (.inl ⟨.compQueue, a, rfl⟩)
  | _ => simp

/-- The four cases of a step: a reset, a transaction, an accept, the caller's move (40_sequencer.md R100). -/
theorem step_cases (s : State) :
    (∃ u, s.resetPin = .asserted u ∧ step s = .next (blockReset u s)) ∨
      (s.resetPin = .released ∧ s.st ≠ .idle ∧ step s = transactionStep s) ∨
      (s.resetPin = .released ∧ s.st = .idle ∧ s.reqValid = true ∧ step s = acceptStep s) ∨
      (s.resetPin = .released ∧ s.st = .idle ∧ s.reqValid = false ∧ step s = .next (callerMove s)) := by
  unfold step State.busy
  cases s.resetPin with
  | asserted u => exact .inl ⟨u, rfl, rfl⟩
  | released =>
    by_cases h : s.st = .idle
    · cases hv : s.reqValid <;> simp [h]
    · simp [h]

/-- A transaction step runs the latched command. -/
theorem transactionStep_latched {s : State} {i : Instr} (h : latchedInstr s = some i) :
    transactionStep s = exec i s := by
  simp [transactionStep, h]

/-- An accept step of a word that decodes runs its command. -/
theorem acceptStep_command {s : State} {i : Instr} (h : decode s.reqCmd = .command i) : acceptStep s = exec i s := by
  simp [acceptStep, h]

/-- An accept step of a word that does not decode refuses it. -/
theorem acceptStep_refuse {s : State} {r : RefuseReason} (h : decode s.reqCmd = .refuse r) :
    acceptStep s = .next (refuse r s) := by
  simp [acceptStep, h]

end Sys2Proof.Machine
end

