-- ==== Sys2Proof/Laws/Exec.lean ====
section
/-! SUPPORT. What the execution of one command can answer, said once: `Move i s t` lists the next states of command `i`
from `s`, and `exec_move` says that `exec` has no other. An invariant of the step is proved by one case per constructor of
`Move`, without unfolding a meaning. -/

namespace Sys2Proof.Machine

open Sys2Proof

/-- `s` with the latches `op_l`, `arg_l` of command `i`; where `i` is the latched command it is `s`. -/
def withLatches (i : Instr) (s : State) : State := { s with opL := some (opcode i), argL := some i.argument }

/-- Every next state of command `i` from `s`. In a busy state, `c` is the call that `st` names for `i`, `a` its answer and
`rest` the answers still to come. -/
inductive Move (i : Instr) (s : State) : State → Prop where
  /-- Accepted, but for MEASURE (40_sequencer.md R102, R103). -/
  | accepted (first : Seq) (idle : s.st = .idle) (wf : i.wellFormed = true) (path : (busyPath i).head? = some first)
      (other : first ≠ .mReq) : Move i s (accept i first s)
  /-- MEASURE accepted (43_measure.md R180). -/
  | acceptedMeasure (a : Word) (idle : s.st = .idle) (is : i = .measure a) : Move i s (measureAccept a s)
  /-- A pure command completed (41_codec.md R127 to R131). -/
  | pure (v : Word) (F : Option ConfigFields) (idle : s.st = .idle) (wf : i.wellFormed = true)
      (path : busyPath i = []) : Move i s (complete .ok v F 0 (takeRequest s))
  /-- A command whose argument is not admitted, refused (40_sequencer.md R105). -/
  | refused (r : RefuseReason) (idle : s.st = .idle) (bad : i.wellFormed = false) : Move i s (refuse r s)
  /-- A failing call (60_exceptions.md R225). -/
  | failed (c : Call) (a : Answer) (rest : Answers) (path : (busyPath i).contains s.st = true)
      (call : namedCall (withLatches i s) = some c) (ans : s.draw = some (a, rest)) (bad : a.status ≠ 0) :
      Move i s (abort a.status (answered c a rest s))
  /-- The command's last call succeeded, or SET_x found its field unchanged. -/
  | done (c : Call) (a : Answer) (rest : Answers) (v : Word) (path : (busyPath i).contains s.st = true)
      (call : namedCall (withLatches i s) = some c) (ans : s.draw = some (a, rest)) (good : a.status = 0) :
      Move i s (completeOk v (answered c a rest s))
  /-- SET_x goes on to its write (42_config_access.md R141). -/
  | toWrite (f : Field) (arg : Word) (a : Answer) (rest : Answers) (is : i = setInstr f arg) (st : s.st = .setRd)
      (ans : s.draw = some (a, rest)) (good : a.status = 0)
      (change : fieldGet (wordOfBytes a.b0 a.b1) f ≠ fieldOperand f arg) :
      Move i s { answered (readCall .config s) a rest s with
        wL := some (fieldSet (wordOfBytes a.b0 a.b1) f (fieldOperand f arg)), st := .setWr }
  /-- MEASURE's start write succeeded (43_measure.md R181). -/
  | started (g : Word) (F : ConfigFields) (a : Answer) (rest : Answers) (is : i = .measure g) (st : s.st = .mReq)
      (fin : s.finL = some F) (ans : s.draw = some (a, rest)) (good : a.status = 0) :
      Move i s { answered (writeCall .config (encodeConfig (startFields F)) s) a rest s with
        npoll := some 0, st := .mPoll }
  /-- A poll read found the conversion complete (43_measure.md R182). -/
  | ready (g : Word) (n : Nat) (a : Answer) (rest : Answers) (is : i = .measure g) (st : s.st = .mPoll)
      (polls : s.npoll = some n) (ans : s.draw = some (a, rest)) (good : a.status = 0)
      (complete : conversionComplete (wordOfBytes a.b0 a.b1) = true) :
      Move i s { answered (readCall .config s) a rest s with st := .mReady }
  /-- A poll read found the device busy, below the limit (43_measure.md R182). -/
  | polled (g : Word) (n : Nat) (a : Answer) (rest : Answers) (is : i = .measure g) (st : s.st = .mPoll)
      (polls : s.npoll = some n) (ans : s.draw = some (a, rest)) (good : a.status = 0)
      (busy : conversionComplete (wordOfBytes a.b0 a.b1) = false)
      (below : pollLimitReached s.params.pollLimit (n + 1) = false) :
      Move i s { answered (readCall .config s) a rest s with npoll := some (n + 1) }
  /-- A poll read found the device busy, and the limit is reached (60_exceptions.md R222). -/
  | timedOut (g : Word) (n : Nat) (a : Answer) (rest : Answers) (is : i = .measure g) (st : s.st = .mPoll)
      (polls : s.npoll = some n) (ans : s.draw = some (a, rest)) (good : a.status = 0)
      (busy : conversionComplete (wordOfBytes a.b0 a.b1) = false)
      (reached : pollLimitReached s.params.pollLimit (n + 1) = true) :
      Move i s (timeout { answered (readCall .config s) a rest s with npoll := some (n + 1) })

theorem busyPath_getInstr (f : Field) (arg : Word) : busyPath (getInstr f arg) = [.getRd] := by cases f <;> rfl

theorem busyPath_setInstr (f : Field) (arg : Word) : busyPath (setInstr f arg) = [.setRd, .setWr] := by
  cases f <;> rfl

theorem wellFormed_getInstr (f : Field) (arg : Word) : (getInstr f arg).wellFormed = true := by cases f <;> rfl

theorem wellFormed_setInstr (f : Field) (arg : Word) : (setInstr f arg).wellFormed = argFits f arg := by
  cases f <;> rfl

variable {i : Instr} {s t : State}

/-- A read step with a call that `st` names either fails or goes on with the word read. -/
theorem memRead_move {r : Reg} {k : Word → State → Result} (path : (busyPath i).contains s.st = true)
    (call : namedCall (withLatches i s) = some (readCall r s))
    (go : ∀ a rest, s.draw = some (a, rest) → a.status = 0 →
      k (wordOfBytes a.b0 a.b1) (answered (readCall r s) a rest s) = .next t → Move i s t)
    (h : memRead r k s = .next t) : Move i s t := by
  obtain ⟨a, rest, ans, ⟨good, hk⟩ | ⟨bad, rfl⟩⟩ := memRead_next h
  · exact go a rest ans good hk
  · exact .failed _ a rest path call ans bad

/-- A write step with a call that `st` names either fails or goes on. -/
theorem memWrite_move {r : Reg} {v : Word} {j : State → Result} (path : (busyPath i).contains s.st = true)
    (call : namedCall (withLatches i s) = some (writeCall r v s))
    (go : ∀ a rest, s.draw = some (a, rest) → a.status = 0 →
      j (answered (writeCall r v s) a rest s) = .next t → Move i s t)
    (h : memWrite r v j s = .next t) : Move i s t := by
  obtain ⟨a, rest, ans, ⟨good, hj⟩ | ⟨bad, rfl⟩⟩ := memWrite_next h
  · exact go a rest ans good hj
  · exact .failed _ a rest path call ans bad

theorem getField_move {f : Field} {arg : Word} (h : getField f arg s = .next t) : Move (getInstr f arg) s t := by
  unfold getField at h
  split at h
  · next hs => cases h; exact .accepted _ hs (wellFormed_getInstr f arg) (by rw [busyPath_getInstr]; rfl) (by simp)
  · next hs =>
    have call : namedCall (withLatches (getInstr f arg) s) = some (readCall .config s) := by
      simp [namedCall, withLatches, hs, readCall]
    refine memRead_move (by rw [busyPath_getInstr, hs]; rfl) call (fun a rest ans good hk => ?_) h
    cases hk
    exact .done _ a rest _ (by rw [busyPath_getInstr, hs]; rfl) call ans good
  · cases h

theorem setField_move {f : Field} {arg : Word} (h : setField f arg s = .next t) : Move (setInstr f arg) s t := by
  unfold setField at h
  split at h
  · next hs =>
    split at h
    · next hf =>
      cases h
      exact .accepted _ hs (by rw [wellFormed_setInstr, hf]) (by rw [busyPath_setInstr]; rfl) (by simp)
    · next hf => cases h; exact .refused _ hs (by rw [wellFormed_setInstr]; simpa using hf)
  · next hs =>
    have call : namedCall (withLatches (setInstr f arg) s) = some (readCall .config s) := by
      simp [namedCall, withLatches, hs, readCall]
    refine memRead_move (by rw [busyPath_setInstr, hs]; rfl) call (fun a rest ans good hk => ?_) h
    unfold setRead at hk
    split at hk
    · cases hk; exact .done _ a rest _ (by rw [busyPath_setInstr, hs]; rfl) call ans good
    · next change => cases hk; exact .toWrite f arg a rest rfl hs ans good change
  · next hs =>
    split at h
    · next w hw =>
      have call : namedCall (withLatches (setInstr f arg) s) = some (writeCall .config w s) := by
        simp [namedCall, withLatches, hs, hw, writeCall]
      refine memWrite_move (by rw [busyPath_setInstr, hs]; rfl) call (fun a rest ans good hj => ?_) h
      cases hj
      exact .done _ a rest _ (by rw [busyPath_setInstr, hs]; rfl) call ans good
    · cases h
  · cases h

theorem execMeasure_move {g : Word} (h : execMeasure g s = .next t) : Move (.measure g) s t := by
  unfold execMeasure at h
  split at h
  · next hs => cases h; exact .acceptedMeasure g hs rfl
  · next hs =>
    split at h
    · next F hF =>
      have call : namedCall (withLatches (.measure g) s) =
          some (writeCall .config (encodeConfig (startFields F)) s) := by
        simp [namedCall, withLatches, hs, hF, writeCall]
      refine memWrite_move (by rw [hs]; rfl) call (fun a rest ans good hj => ?_) h
      cases hj
      exact .started g F a rest rfl hs hF ans good
    · cases h
  · next hs =>
    split at h
    · next n hn =>
      have call : namedCall (withLatches (.measure g) s) = some (readCall .config s) := by
        simp [namedCall, withLatches, hs, readCall]
      refine memRead_move (by rw [hs]; rfl) call (fun a rest ans good hk => ?_) h
      unfold measurePolled at hk
      split at hk
      · next hc => cases hk; exact .ready g n a rest rfl hs hn ans good hc
      · next hc =>
        split at hk
        · next hl => cases hk; exact .timedOut g n a rest rfl hs hn ans good (by simpa using hc) hl
        · next hl => cases hk; exact .polled g n a rest rfl hs hn ans good (by simpa using hc) (by simpa using hl)
    · cases h
  · next hs =>
    have call : namedCall (withLatches (.measure g) s) = some (readCall .conversion s) := by
      simp [namedCall, withLatches, hs, readCall]
    refine memRead_move (by rw [hs]; rfl) call (fun a rest ans good hk => ?_) h
    cases hk
    exact .done _ a rest _ (by rw [hs]; rfl) call ans good
  · cases h

theorem getThreshold_move (hp : busyPath i = [.thRd]) (wf : i.wellFormed = true) (h : getThreshold i s = .next t) :
    Move i s t := by
  unfold getThreshold at h
  split at h
  · next hs => cases h; exact .accepted _ hs wf (by rw [hp]; rfl) (by simp)
  · next hs =>
    have call : namedCall (withLatches i s) = some (readCall (thresholdReg (opcode i)) s) := by
      simp [namedCall, withLatches, hs, readCall]
    refine memRead_move (by rw [hp, hs]; rfl) call (fun a rest ans good hk => ?_) h
    cases hk
    exact .done _ a rest _ (by rw [hp, hs]; rfl) call ans good
  · cases h

theorem setThreshold_move (hp : busyPath i = [.thWr]) (wf : i.wellFormed = thresholdFits i.argument)
    (h : setThreshold i s = .next t) : Move i s t := by
  unfold setThreshold at h
  split at h
  · next hs =>
    split at h
    · next hf => cases h; exact .accepted _ hs (by rw [wf, hf]) (by rw [hp]; rfl) (by simp)
    · next hf => cases h; exact .refused _ hs (by rw [wf]; simpa using hf)
  · next hs =>
    have call : namedCall (withLatches i s) =
        some (writeCall (thresholdReg (opcode i)) (thresholdEncode (thresholdOperand i.argument)) s) := by
      simp [namedCall, withLatches, hs, writeCall]
    refine memWrite_move (by rw [hp, hs]; rfl) call (fun a rest ans good hj => ?_) h
    cases hj
    exact .done _ a rest _ (by rw [hp, hs]; rfl) call ans good
  · cases h

theorem pureComplete_move {v : Word} {F : Option ConfigFields} (hp : busyPath i = []) (wf : i.wellFormed = true)
    (h : pureComplete v F s = .next t) : Move i s t := by
  unfold pureComplete at h
  split at h
  · next hs => cases h; exact .pure v F hs wf hp
  · cases h

theorem execThEncode_move {arg : Word} (h : execThEncode arg s = .next t) : Move (.thEncode arg) s t := by
  unfold execThEncode at h
  split at h
  · next hs =>
    split at h
    · next hf => exact pureComplete_move rfl hf h
    · next hf => cases h; exact .refused _ hs (Bool.eq_false_iff.2 hf)
  · cases h

/-- Every next state of a command is one of its moves. -/
theorem exec_move (h : exec i s = .next t) : Move i s t := by
  obtain ⟨f, a, rfl⟩ | ⟨f, a, rfl⟩ | ⟨a, rfl⟩ | ⟨a, rfl | rfl⟩ | ⟨a, rfl | rfl⟩ |
    ⟨a, rfl | rfl | rfl | rfl | rfl⟩ := instr_families i
  · exact getField_move (by simpa using h)
  · exact setField_move (by simpa using h)
  · exact execMeasure_move h
  · exact getThreshold_move rfl rfl h
  · exact getThreshold_move rfl rfl h
  · exact setThreshold_move rfl rfl h
  · exact setThreshold_move rfl rfl h
  · exact pureComplete_move rfl rfl h
  · exact pureComplete_move rfl rfl h
  · exact execThEncode_move h
  · exact pureComplete_move rfl rfl h
  · exact pureComplete_move rfl rfl h

end Sys2Proof.Machine
end

