-- ==== Sys2Proof/Laws/Claims.lean ====
section
/-! SUPPORT. The words the claims are stated in (Safety.lean) beside the operations of the model: the events of a call,
the state a completion leaves, runs of several steps, and the paths of the commands. -/

namespace Sys2Proof.Machine

open Sys2Proof

variable {s t : State} {a : Answer} {rest : Answers} {r : Reg} {v : Word} {i : Instr}

theorem callEvent_okRead (h : a.status = 0) : callEvent (readCall r s) a = okRead s.params r a.b0 a.b1 :=
  callEvent_read_ok h

theorem callEvent_failedRead (h : a.status ≠ 0) : callEvent (readCall r s) a = failedRead s.params r a.status :=
  callEvent_read_fails h

theorem callEvent_wrote :
    callEvent (writeCall r v s) a = wrote s.params r (firstByte v) (secondByte v) a.status := rfl

/-- A command completed by the answer of its last call. -/
theorem complete_answered (k : RspKind) (F : Option ConfigFields) (code : Nat) (c : Call) :
    complete k v F code (answered c a rest s) =
      responded [callEvent c a] ⟨k, v, F, if k = .ok then none else some code⟩ rest s := by
  simp [complete, answered, responded, record]

/-- A pure command completed in its accept step. -/
theorem complete_takeRequest (F : Option ConfigFields) :
    complete .ok v F 0 (takeRequest s) = responded [] ⟨.ok, v, F, none⟩ s.answers { s with reqValid := false } := by
  simp [complete, responded, record, takeRequest]

/-- The response of a command does not remember its accept step. -/
theorem responded_accept (es : List Event) (p : Response) (first : Seq) :
    responded es p rest (accept i first s) = responded es p rest { s with reqValid := false } := by
  simp [responded, accept, takeRequest]

/-- A run that goes on for `m` steps goes on with the rest of its steps. -/
theorem steps_add {m n : Nat} (h : steps m s = .next t) : steps (m + n) s = steps n t := by
  induction m generalizing s with
  | zero => rw [Nat.zero_add]; cases h; rfl
  | succ m ih =>
    rw [Nat.add_right_comm]
    simp only [steps] at h ⊢
    cases hs : step s with
    | next u => rw [hs] at h; exact ih h
    | fault e => simp [hs] at h
    | refused e => simp [hs] at h

/-- A drawn answer fits `STATUS_W`, and the ones after it do, if all of them do. -/
theorem fit_draw {w : Nat} {all rest : Answers} {a : Answer} (h : all.fit w = true) (hd : all.draw w = some (a, rest)) :
    a.status < 2 ^ w ∧ rest.fit w = true := by
  cases all with
  | silent => cases hd
  | forever b => cases hd; exact ⟨by simpa [Answers.fit] using h, h⟩
  | drawn stream k =>
    obtain ⟨ha, rfl⟩ := draw_drawn hd
    exact ⟨ha, rfl⟩
  | next b more => cases hd; simpa [Answers.fit] using h

/-- Answers that begin with one list and go on with another begin with both. -/
theorem give_append {w : Nat} {as bs : List Answer} {all rest : Answers} :
    Answers.give w (as ++ bs) all rest ↔ ∃ more, Answers.give w as all more ∧ Answers.give w bs more rest := by
  induction as generalizing all with
  | nil => simp [Answers.give]
  | cons a as ih =>
    simp only [List.cons_append, Answers.give, ih]
    constructor
    · rintro ⟨m, hd, more, h⟩; exact ⟨more, ⟨m, hd, h.1⟩, h.2⟩
    · rintro ⟨more, ⟨m, hd, h⟩, h'⟩; exact ⟨m, hd, more, h, h'⟩

/-- No path goes through `IDLE`. -/
theorem busyPath_ne_idle {st : Seq} (h : (busyPath i).contains st = true) : st ≠ .idle := by
  cases i <;> simp [busyPath] at h <;> rcases h with rfl | rfl | rfl <;> simp

/-- The first busy state of a command is on its path, and is none of the later ones. -/
theorem busyPath_head {first : Seq} (h : (busyPath i).head? = some first) :
    (busyPath i).contains first = true ∧ first ≠ .idle ∧ first ≠ .setWr ∧ first ≠ .mPoll ∧ first ≠ .mReady := by
  cases i <;> simp [busyPath] at h <;> subst h <;> simp [busyPath]

end Sys2Proof.Machine
end

