-- ==== Sys2Proof/Laws/PerInstr.lean ====
section
/-! SUPPORT. For every command: its word is its opcode above its 16 argument bits, so a word's number is the opcode
times 65536 plus the argument (30_encoding.md R81, R85). -/

namespace Sys2Proof.Laws.EncodeSplits

open Sys2Proof

/-- The word of `i` as a number. -/
def Statement (i : Instr) : Prop := (encode i).toNat = (opcode i).toNat * 65536 + i.argument.toNat

/-- The reason, once for every command. -/
theorem of_halves (i : Instr) : Statement i := by
  have h := i.argument.isLt
  unfold Statement encode
  rw [BitVec.toNat_append, ← Nat.shiftLeft_add_eq_or_of_lt h, Nat.shiftLeft_eq]

theorem getStatus (a : Word) : Statement (.getStatus a) := of_halves _
theorem getChannel (a : Word) : Statement (.getChannel a) := of_halves _
theorem getGain (a : Word) : Statement (.getGain a) := of_halves _
theorem getMode (a : Word) : Statement (.getMode a) := of_halves _
theorem getDataRate (a : Word) : Statement (.getDataRate a) := of_halves _
theorem getCompMode (a : Word) : Statement (.getCompMode a) := of_halves _
theorem getCompPolarity (a : Word) : Statement (.getCompPolarity a) := of_halves _
theorem getCompLatch (a : Word) : Statement (.getCompLatch a) := of_halves _
theorem getCompQueue (a : Word) : Statement (.getCompQueue a) := of_halves _
theorem setStatus (a : Word) : Statement (.setStatus a) := of_halves _
theorem setChannel (a : Word) : Statement (.setChannel a) := of_halves _
theorem setGain (a : Word) : Statement (.setGain a) := of_halves _
theorem setMode (a : Word) : Statement (.setMode a) := of_halves _
theorem setDataRate (a : Word) : Statement (.setDataRate a) := of_halves _
theorem setCompMode (a : Word) : Statement (.setCompMode a) := of_halves _
theorem setCompPolarity (a : Word) : Statement (.setCompPolarity a) := of_halves _
theorem setCompLatch (a : Word) : Statement (.setCompLatch a) := of_halves _
theorem setCompQueue (a : Word) : Statement (.setCompQueue a) := of_halves _
theorem measure (a : Word) : Statement (.measure a) := of_halves _
theorem getLoThresh (a : Word) : Statement (.getLoThresh a) := of_halves _
theorem setLoThresh (a : Word) : Statement (.setLoThresh a) := of_halves _
theorem getHiThresh (a : Word) : Statement (.getHiThresh a) := of_halves _
theorem setHiThresh (a : Word) : Statement (.setHiThresh a) := of_halves _
theorem cfgEncode (a : Word) : Statement (.cfgEncode a) := of_halves _
theorem cfgDecode (a : Word) : Statement (.cfgDecode a) := of_halves _
theorem thEncode (a : Word) : Statement (.thEncode a) := of_halves _
theorem thDecode (a : Word) : Statement (.thDecode a) := of_halves _
theorem resDecode (a : Word) : Statement (.resDecode a) := of_halves _

end Sys2Proof.Laws.EncodeSplits
end

