-- ==== Sys2Proof/Tests/Slice0.lean ====
section
/-! SUPPORT. The model's own tests: refused terms, one written-out word per command, single steps whose expected values
come from spec/95_test_vectors.md, and for every statement with hypotheses a state and operands that meet them
(`test_witness_…`, one for each clause, at boundary values). -/

namespace Sys2Proof.Tests

open Sys2Proof Sys2Proof.Machine

/-! ### Small states -/

/-- A successful answer with the bytes `b0, b1`. -/
def good (b0 b1 : Byte) : Answer := { status := 0, b0, b1 }

/-- A failing answer with status `s`. -/
def bad (s : Nat) : Answer := { status := s, b0 := 0x80, b1 := 0 }

/-- The answers `as`, and then `after`. -/
def script (as : List Answer) (after : Answers := .silent) : Answers := as.foldr .next after

/-- A waiting block with `w` presented, the fields of image `img` on the port, and `as` to come. -/
def asked (w : Cmd) (img : Word) (as : List Answer) : State :=
  { State.reset with reqValid := true, reqCmd := w, reqFields := decodeConfig img, answers := script as }

/-- A busy block in `st` of command `i`, with `as` to come. -/
def busyIn (st : Seq) (i : Instr) (as : List Answer) : State :=
  { State.reset with st := st, opL := some (opcode i), argL := some i.argument, answers := script as }

/-- A busy MEASURE in `st` with field image `img` latched, poll count `n`, poll limit `lim`, and `as` to come. -/
def measuring (st : Seq) (img : Word) (n : Option Nat) (lim : Option Nat) (as : List Answer) : State :=
  { busyIn st (.measure 0) as with
    finL := some (decodeConfig img), npoll := n, params := { Params.default with pollLimit := lim } }

/-- A SET in `SET_WR` about to write `w`. -/
def writing (i : Instr) (w : Word) (as : List Answer) : State := { busyIn .setWr i as with wL := some w }

/-- The next state, if there is one. -/
def next? : Result → Option State
  | .next s => some s
  | _ => none

/-- What a step shows on the response port: kind, value, code. -/
def shown (r : Result) : Option (Option RspKind × Option Word × Option Nat) :=
  (next? r).map fun s => (s.rspKind, s.rspValue, s.rspCode)

/-- The events of the state after a step. -/
def events (r : Result) : Option (List Event) := (next? r).map (·.trace)

/-- What a read of register 1 answering `w` gives a GET in its busy state. -/
def getOn (i : Instr) (b0 b1 : Byte) : Option (Option RspKind × Option Word × Option Nat) :=
  shown (exec i (busyIn .getRd i [good b0 b1]))

/-- What a read of register 1 answering `b0, b1` gives a SET in `SET_RD`: the state it goes to and `w_l`. -/
def setOn (i : Instr) (b0 b1 : Byte) : Option (Seq × Option Word) :=
  (next? (exec i (busyIn .setRd i [good b0 b1]))).map fun s => (s.st, s.wL)

theorem test_script_gives (w : Nat) (as : List Answer) (after : Answers) :
    Answers.give w as (script as after) after := by
  induction as with
  | nil => rfl
  | cons a as ih => exact ⟨_, rfl, ih⟩

/-! ### Ill-formed terms are refused by WellFormed (30_encoding.md R83) -/

theorem test_illFormed_values :
    Instr.wellFormed (.setStatus 2) = false ∧ Instr.wellFormed (.setChannel 8) = false ∧
    Instr.wellFormed (.setGain 8) = false ∧ Instr.wellFormed (.setMode 2) = false ∧
    Instr.wellFormed (.setDataRate 8) = false ∧ Instr.wellFormed (.setCompMode 2) = false ∧
    Instr.wellFormed (.setCompPolarity 2) = false ∧ Instr.wellFormed (.setCompLatch 2) = false ∧
    Instr.wellFormed (.setCompQueue 4) = false ∧ Instr.wellFormed (.setGain 0x8001) = false := by decide

theorem test_illFormed_thresholds :
    Instr.wellFormed (.setLoThresh 0x0800) = false ∧ Instr.wellFormed (.setHiThresh 0xF7FF) = false ∧
    Instr.wellFormed (.thEncode 0x0800) = false ∧ Instr.wellFormed (.thEncode 0xF7FF) = false ∧
    Instr.wellFormed (.thEncode 0x07FF) = true ∧ Instr.wellFormed (.thEncode 0xF800) = true := by decide

/-! ### One word of each command, written out from the opcode map (30_encoding.md R81, R85) -/

theorem test_decode_get :
    decode 0b00010000_0000000000000000 = .command (.getStatus 0) ∧
    decode 0b00010001_0000000000000001 = .command (.getChannel 1) ∧
    decode 0b00010010_1010101111001101 = .command (.getGain 0xABCD) ∧
    decode 0b00010011_0000000000000000 = .command (.getMode 0) ∧
    decode 0b00010100_1000000000000000 = .command (.getDataRate 0x8000) ∧
    decode 0b00010101_0000000000000000 = .command (.getCompMode 0) ∧
    decode 0b00010110_0000000000000000 = .command (.getCompPolarity 0) ∧
    decode 0b00010111_0000000000000000 = .command (.getCompLatch 0) ∧
    decode 0b00011000_1111111111111111 = .command (.getCompQueue 0xFFFF) := by decide

theorem test_decode_set :
    decode 0b00100000_0000000000000001 = .command (.setStatus 1) ∧
    decode 0b00100001_0000000000000111 = .command (.setChannel 7) ∧
    decode 0b00100010_0000000000000110 = .command (.setGain 6) ∧
    decode 0b00100011_0000000000000000 = .command (.setMode 0) ∧
    decode 0b00100100_0000000000000101 = .command (.setDataRate 5) ∧
    decode 0b00100101_0000000000000001 = .command (.setCompMode 1) ∧
    decode 0b00100110_0000000000000001 = .command (.setCompPolarity 1) ∧
    decode 0b00100111_0000000000000000 = .command (.setCompLatch 0) ∧
    decode 0b00101000_0000000000000010 = .command (.setCompQueue 2) := by decide

theorem test_decode_rest :
    decode 0b00110000_0000000000000000 = .command (.measure 0) ∧
    decode 0b01000000_0000000000000000 = .command (.getLoThresh 0) ∧
    decode 0b01000001_1111100000000000 = .command (.setLoThresh 0xF800) ∧
    decode 0b01000010_0000000000000000 = .command (.getHiThresh 0) ∧
    decode 0b01000011_0000011111111111 = .command (.setHiThresh 0x07FF) ∧
    decode 0b01010000_0000000000000000 = .command (.cfgEncode 0) ∧
    decode 0b01010001_1000010110000011 = .command (.cfgDecode 0x8583) ∧
    decode 0b01010010_1111111111111111 = .command (.thEncode 0xFFFF) ∧
    decode 0b01010011_0111111111110000 = .command (.thDecode 0x7FF0) ∧
    decode 0b01010100_0001001000110000 = .command (.resDecode 0x1230) := by decide

/-- The refusal examples of 95_test_vectors.md L2-C and L2-F. -/
theorem test_decode_refuses :
    decode 0x000000 = .refuse .reservedOpcode ∧ decode 0x0F1234 = .refuse .reservedOpcode ∧
    decode 0x310000 = .refuse .reservedOpcode ∧ decode 0x440000 = .refuse .reservedOpcode ∧
    decode 0x550000 = .refuse .reservedOpcode ∧ decode 0xFF0000 = .refuse .reservedOpcode ∧
    decode 0x220008 = .refuse .argOutOfField ∧ decode 0x200002 = .refuse .argOutOfField ∧
    decode 0x280004 = .refuse .argOutOfField ∧ decode 0x410800 = .refuse .thresholdOutOfRange := by decide

theorem test_tableWord :
    decodeTableWord 24 0x120000 = some (.getGain 0) ∧ decodeTableWord 24 0x220008 = none ∧
    decodeTableWord 24 0x1220000 = none := by decide

/-- A word placed after reset is run by the very next step. -/
theorem test_withFetchWord :
    (next? (step (State.reset.withFetchWord 24 0x300000))).map (·.st) = some .mReq ∧
    shown (step (State.reset.withFetchWord 24 0x541230)) = some (some .ok, some 0x0123, none) := by decide

/-! ### GET_x (95_test_vectors.md L2-B) -/

theorem test_getStatus : getOn (.getStatus 0) 0x85 0x83 = some (some .ok, some 1, none) ∧
    getOn (.getStatus 0) 0x7A 0x5C = some (some .ok, some 0, none) := by decide
theorem test_getChannel : getOn (.getChannel 0) 0x85 0x83 = some (some .ok, some 0, none) ∧
    getOn (.getChannel 0) 0x7A 0x5C = some (some .ok, some 7, none) := by decide
theorem test_getGain : getOn (.getGain 0xABCD) 0x85 0x83 = some (some .ok, some 2, none) ∧
    getOn (.getGain 0) 0x7A 0x5C = some (some .ok, some 5, none) := by decide
theorem test_getMode : getOn (.getMode 0) 0x85 0x83 = some (some .ok, some 1, none) ∧
    getOn (.getMode 0) 0x7A 0x5C = some (some .ok, some 0, none) := by decide
theorem test_getDataRate : getOn (.getDataRate 0) 0x85 0x83 = some (some .ok, some 4, none) ∧
    getOn (.getDataRate 0) 0x7A 0x5C = some (some .ok, some 2, none) := by decide
theorem test_getCompMode : getOn (.getCompMode 0) 0x85 0x83 = some (some .ok, some 0, none) ∧
    getOn (.getCompMode 0) 0x7A 0x5C = some (some .ok, some 1, none) := by decide
theorem test_getCompPolarity : getOn (.getCompPolarity 0) 0x85 0x83 = some (some .ok, some 0, none) ∧
    getOn (.getCompPolarity 0) 0x7A 0x5C = some (some .ok, some 1, none) := by decide
theorem test_getCompLatch : getOn (.getCompLatch 0) 0x85 0x83 = some (some .ok, some 0, none) ∧
    getOn (.getCompLatch 0) 0x7A 0x5C = some (some .ok, some 1, none) := by decide
theorem test_getCompQueue : getOn (.getCompQueue 0) 0x85 0x83 = some (some .ok, some 3, none) ∧
    getOn (.getCompQueue 0) 0x7A 0x5C = some (some .ok, some 0, none) := by decide

/-- B-err: the failing read of GET.gain. -/
theorem test_getGain_fails :
    shown (exec (.getGain 0) (busyIn .getRd (.getGain 0) [bad 4])) = some (some .transportError, some 0, some 4) ∧
    events (exec (.getGain 0) (busyIn .getRd (.getGain 0) [bad 4])) =
      some [.call ⟨0, .config, .read, 2⟩ 4 none, .response ⟨.transportError, 0, none, some 4⟩] := by decide

/-! ### SET_x (95_test_vectors.md L2-C, C1 to C21, L1-4) -/

theorem test_setStatus : setOn (.setStatus 0) 0x85 0x83 = some (.setWr, some 0x0583) ∧
    setOn (.setStatus 1) 0x85 0x83 = some (.idle, none) ∧
    setOn (.setStatus 1) 0x05 0x83 = some (.setWr, some 0x8583) := by decide
theorem test_setChannel : setOn (.setChannel 7) 0x85 0x83 = some (.setWr, some 0xF583) ∧
    setOn (.setChannel 1) 0xFF 0xFF = some (.setWr, some 0x9FFF) := by decide
theorem test_setGain : setOn (.setGain 1) 0x05 0x83 = some (.setWr, some 0x0383) ∧
    setOn (.setGain 6) 0x85 0x83 = some (.setWr, some 0x8D83) ∧
    setOn (.setGain 2) 0x85 0x83 = some (.idle, none) := by decide
theorem test_setMode : setOn (.setMode 0) 0x85 0x83 = some (.setWr, some 0x8483) := by decide
theorem test_setDataRate : setOn (.setDataRate 7) 0x85 0x83 = some (.setWr, some 0x85E3) := by decide
theorem test_setCompMode : setOn (.setCompMode 1) 0x85 0x83 = some (.setWr, some 0x8593) := by decide
theorem test_setCompPolarity : setOn (.setCompPolarity 1) 0x85 0x83 = some (.setWr, some 0x858B) := by decide
theorem test_setCompLatch : setOn (.setCompLatch 1) 0x85 0x83 = some (.setWr, some 0x8587) := by decide
theorem test_setCompQueue : setOn (.setCompQueue 0) 0x85 0x83 = some (.setWr, some 0x8580) ∧
    setOn (.setCompQueue 3) 0x85 0x83 = some (.idle, none) := by decide

/-- C6: the bytes of the write and the response. -/
theorem test_setGain_writes :
    events (exec (.setGain 1) (writing (.setGain 1) 0x8383 [good 0 0])) =
      some [.call ⟨0, .config, .write 0x83 0x83, 2⟩ 0 none, .response ⟨.ok, 0, none, none⟩] := by decide

/-- C21: the write fails. -/
theorem test_setCompLatch_write_fails :
    shown (exec (.setCompLatch 1) (writing (.setCompLatch 1) 0x8587 [bad 6])) =
      some (some .transportError, some 0, some 6) := by decide

/-- C17: an argument wider than its field is refused: the mark, no event, no response. -/
theorem test_setGain_refused :
    (next? (step (asked 0x220008 0 []))).map (fun s => (s.refused, s.trace, s.rspValid, s.st)) =
      some (true, [], false, .idle) := by decide

/-! ### MEASURE (95_test_vectors.md L2-D) -/

/-- D1 and D2: the start write has bit 15 set whatever the caller's status. -/
theorem test_measure_starts :
    events (exec (.measure 0) (measuring .mReq 0x0583 none none [good 0 0])) =
      some [.call ⟨0, .config, .write 0x85 0x83, 2⟩ 0 none] ∧
    events (exec (.measure 0) (measuring .mReq 0x0483 none none [good 0 0])) =
      some [.call ⟨0, .config, .write 0x84 0x83, 2⟩ 0 none] := by decide

/-- D8, D5, D4 and L1-7: ready on bit 15 alone, the timeout, a failing poll whose bytes look ready, the result. -/
theorem test_measure_polls :
    (next? (exec (.measure 0) (measuring .mPoll 0x8583 (some 0) none [good 0x80 0]))).map (·.st) = some .mReady ∧
    shown (exec (.measure 0) (measuring .mPoll 0x8583 (some 1) (some 2) [good 0x05 0x83])) =
      some (some .timeout, some 0, some 0) ∧
    shown (exec (.measure 0) (measuring .mPoll 0x8583 (some 0) none [bad 2])) =
      some (some .transportError, some 0, some 2) ∧
    shown (exec (.measure 0) (measuring .mReady 0x8583 (some 3) none [good 0xFF 0xF0])) =
      some (some .ok, some 0x0FFF, none) := by decide

/-! ### Threshold commands (95_test_vectors.md L2-E) -/

/-- E7: −100, padding ignored. -/
theorem test_getLoThresh :
    events (exec (.getLoThresh 0) (busyIn .thRd (.getLoThresh 0) [good 0xF9 0xC5])) =
      some [.call ⟨0, .lowThreshold, .read, 2⟩ 0 (some (0xF9, 0xC5)), .response ⟨.ok, 0xFF9C, none, none⟩] := by
  decide

/-- E8 and E9. -/
theorem test_getHiThresh :
    events (exec (.getHiThresh 0) (busyIn .thRd (.getHiThresh 0) [good 0x7F 0xFF])) =
      some [.call ⟨0, .highThreshold, .read, 2⟩ 0 (some (0x7F, 0xFF)), .response ⟨.ok, 0x07FF, none, none⟩] ∧
    shown (exec (.getHiThresh 0) (busyIn .thRd (.getHiThresh 0) [bad 8])) =
      some (some .transportError, some 0, some 8) := by decide

/-- E1 and E10. -/
theorem test_setLoThresh :
    events (exec (.setLoThresh 0xF800) (busyIn .thWr (.setLoThresh 0xF800) [good 0 0])) =
      some [.call ⟨0, .lowThreshold, .write 0x80 0x00, 2⟩ 0 none, .response ⟨.ok, 0, none, none⟩] ∧
    events (exec (.setLoThresh 5) (busyIn .thWr (.setLoThresh 5) [bad 3])) =
      some [.call ⟨0, .lowThreshold, .write 0x00 0x50, 2⟩ 3 none, .response ⟨.transportError, 0, none, some 3⟩] := by
  decide

/-- E3 and E5. -/
theorem test_setHiThresh :
    events (exec (.setHiThresh 0x07FF) (busyIn .thWr (.setHiThresh 0x07FF) [good 0 0])) =
      some [.call ⟨0, .highThreshold, .write 0x7F 0xF0, 2⟩ 0 none, .response ⟨.ok, 0, none, none⟩] ∧
    events (exec (.setHiThresh 1000) (busyIn .thWr (.setHiThresh 1000) [good 0 0])) =
      some [.call ⟨0, .highThreshold, .write 0x3E 0x80, 2⟩ 0 none, .response ⟨.ok, 0, none, none⟩] := by decide

/-! ### Pure codec commands (95_test_vectors.md L2-A) -/

/-- A5 and A6. -/
theorem test_cfgEncode : shown (exec (.cfgEncode 0) (asked 0x500000 0x7A5C [])) = some (some .ok, some 0x7A5C, none) ∧
    shown (step { asked 0x500000 0 [] with reqFields := ⟨1, 0, 7, 1, 4, 0, 0, 0, 3⟩ }) =
      some (some .ok, some 0x8F83, none) := by decide

/-- A3 and A4. -/
theorem test_cfgDecode :
    (next? (step (asked 0x51C3E0 0 []))).map (·.rspFields) = some (some ⟨1, 4, 1, 1, 7, 0, 0, 0, 0⟩) ∧
    (next? (step (asked 0x517A5C 0 []))).map (·.rspFields) = some (some ⟨0, 7, 5, 0, 2, 1, 1, 1, 0⟩) := by decide

/-- A8, A10 and A12. -/
theorem test_thEncode : shown (step (asked 0x5207FF 0 [])) = some (some .ok, some 0x7FF0, none) ∧
    shown (step (asked 0x52F800 0 [])) = some (some .ok, some 0x8000, none) ∧
    (next? (step (asked 0x52F7FF 0 []))).map (·.refused) = some true := by decide

/-- A14 and A15. -/
theorem test_thDecode : shown (step (asked 0x537FFF 0 [])) = some (some .ok, some 0x07FF, none) ∧
    shown (step (asked 0x538000 0 [])) = some (some .ok, some 0xF800, none) := by decide

/-- A19 and A20. -/
theorem test_resDecode : shown (step (asked 0x548000 0 [])) = some (some .ok, some 0x0800, none) ∧
    shown (step (asked 0x54000F 0 [])) = some (some .ok, some 0, none) := by decide

/-! ### The assembler (30_encoding.md R90, R91; 95_test_vectors.md P2) -/

theorem test_assemble (port : ConfigFields) :
    assemble port (.setTh (-100) 1000) = some [⟨0x41FF9C, port⟩, ⟨0x4303E8, port⟩] ∧
    assemble port (.measureW 0x83E3) = some [⟨0x300000, decodeConfig 0x83E3⟩] ∧
    assemble port (.set .gain 8) = none ∧ assemble port (.setThLo 2048) = none := ⟨rfl, rfl, rfl, rfl⟩

/-- A field list in any order, with a missing field and with a field named twice; a blank line. -/
theorem test_assembleText (port : ConfigFields) :
    (asmTokens [] "a=0x1F , b".toList = [.word ['a'], .equals, .word ['0', 'x', '1', 'F'], .comma, .word ['b']]) ∧
    asmFields (asmTokens [] ("gain=6,status=1,channel=7,mode=0,data_rate=5,comp_mode=1,comp_polarity=0," ++
      "comp_latch=1,comp_queue=2").toList ++ [.closing]) = some ⟨1, 7, 6, 0, 5, 1, 0, 1, 2⟩ ∧
    asmFields (asmTokens [] ("status=1,channel=7,mode=0,data_rate=5,comp_mode=1,comp_polarity=0," ++
      "comp_latch=1,comp_queue=2").toList ++ [.closing]) = none ∧
    asmFields (asmTokens [] ("gain=6,gain=6,status=1,channel=7,mode=0,data_rate=5,comp_mode=1,comp_polarity=0," ++
      "comp_latch=1,comp_queue=2").toList ++ [.closing]) = none ∧
    assembleText port "   ; nothing" = some [] :=
  ⟨by decide, by decide, by decide, by decide, rfl⟩

/-! ### Witnesses of the statements' hypotheses -/

theorem test_witness_DecodeOfEncodeIsTheCommand :
    Instr.wellFormed (.setGain 7) = true ∧ Instr.wellFormed (.setHiThresh 0x07FF) = true ∧
    Instr.wellFormed (.thEncode 0xF800) = true ∧ Instr.wellFormed (.cfgDecode 0xFFFF) = true := by decide

theorem test_witness_EncodeOfDecodeIsTheWord : decode 0x220007 = .command (.setGain 7) := by decide

/-- Each boundary of the reserved ranges, and a presented word. -/
theorem test_witness_ReservedOpcodesAreRefused :
    (∀ op ∈ [0x00#8, 0x0F#8, 0x19#8, 0x1F#8, 0x29#8, 0x2F#8, 0x31#8, 0x3F#8, 0x44#8, 0x4F#8, 0x55#8, 0xFF#8],
      decode (op ++ 0#16) = .refuse .reservedOpcode) ∧
    (∀ op ∈ [0x10#8, 0x18#8, 0x20#8, 0x28#8, 0x30#8, 0x40#8, 0x43#8, 0x50#8, 0x54#8],
      decode (op ++ 0#16) ≠ .refuse .reservedOpcode) ∧
    presents (asked 0x55FFFF 0 []) 0x55 0xFFFF := ⟨by decide, by decide, rfl, rfl, rfl, rfl⟩

/-- The widest admitted value and the narrowest refused one. -/
theorem test_witness_SetAdmitsExactlyFieldValues :
    presents (asked 0x280003 0 []) (BitVec.ofNat 8 (0x20 + Field.compQueue.index)) 3 ∧
    (3#16).toNat < 2 ^ Field.compQueue.width ∧
    presents (asked 0x280004 0 []) (BitVec.ofNat 8 (0x20 + Field.compQueue.index)) 4 ∧
    ¬ (4#16).toNat < 2 ^ Field.compQueue.width := by
  refine ⟨⟨rfl, rfl, rfl, rfl⟩, by decide, ⟨rfl, rfl, rfl, rfl⟩, by decide⟩

theorem test_witness_OutOfRangeThresholdIsRefused :
    (presents (asked 0x410800 0 []) 0x41 0x0800 ∧ ¬ (-2048 ≤ (0x0800#16).toInt ∧ (0x0800#16).toInt ≤ 2047)) ∧
    (presents (asked 0x43F7FF 0 []) 0x43 0xF7FF ∧ ¬ (-2048 ≤ (0xF7FF#16).toInt ∧ (0xF7FF#16).toInt ≤ 2047)) ∧
    (presents (asked 0x5207FF 0 []) 0x52 0x07FF ∧ (-2048 ≤ (0x07FF#16).toInt ∧ (0x07FF#16).toInt ≤ 2047)) ∧
    (presents (asked 0x52F800 0 []) 0x52 0xF800 ∧ (-2048 ≤ (0xF800#16).toInt ∧ (0xF800#16).toInt ≤ 2047)) := by
  refine ⟨⟨⟨rfl, rfl, rfl, rfl⟩, by decide⟩, ⟨⟨rfl, rfl, rfl, rfl⟩, by decide⟩, ⟨⟨rfl, rfl, rfl, rfl⟩, by decide⟩,
    ⟨⟨rfl, rfl, rfl, rfl⟩, by decide⟩⟩

theorem test_witness_IgnoredArgumentChangesOnlyItsLatch :
    (opcode (.getGain 0xABCD) = opcode (.getGain 0) ∧ (Instr.getGain 0xABCD).format = .none) ∧
    (opcode (.measure 0xFFFF) = opcode (.measure 0) ∧ (Instr.measure 0xFFFF).format = .fields) := by decide

/-- The highest bit of the widest place, inside and outside a field. -/
theorem test_witness_FieldHelpersAgreeWithTheCodec :
    2 < Field.channel.width ∧ 0 < Field.status.width ∧ (Field.status.lo ≤ 15 ∧ 15 < Field.status.lo + 1) ∧
    ¬ (Field.channel.lo ≤ 15 ∧ 15 < Field.channel.lo + Field.channel.width) := by decide

theorem test_witness_ThresholdDecodeIsSigned : (0x7FF0#16).toNat / 16 = (0x7FFF#16).toNat / 16 := by decide

/-- Padding zero and not zero. -/
theorem test_witness_ThresholdEncodeLeftJustifies :
    (0x000F#16).extractLsb' 0 4 ≠ 0 ∧ ¬ (0xFFF0#16).extractLsb' 0 4 ≠ 0 := by decide

theorem test_witness_CfgEncodeRespondsWithTheWord : (asked 0x500000 0x8583 []).st = .idle := rfl

theorem test_witness_CfgDecodeRespondsWithTheFields : (asked 0x518583 0 []).st = .idle := rfl

theorem test_witness_PureThresholdAndResultCommandsComplete :
    (asked 0x52F800 0 []).st = .idle ∧ (-2048 ≤ (0xF800#16).toInt ∧ (0xF800#16).toInt ≤ 2047) ∧
    (-2048 ≤ (0x07FF#16).toInt ∧ (0x07FF#16).toInt ≤ 2047) ∧
    ¬ (-2048 ≤ (0x0800#16).toInt ∧ (0x0800#16).toInt ≤ 2047) ∧
    ¬ (-2048 ≤ (0xF7FF#16).toInt ∧ (0xF7FF#16).toInt ≤ 2047) := by decide

theorem test_witness_GetRespondsWithItsField :
    (busyIn .getRd (getInstr .status 0) [good 0x85 0x83]).st = .getRd ∧ (good 0x85 0x83).status = 0 ∧
    (busyIn .getRd (getInstr .compQueue 0) [bad 255]).draw = some (bad 255, .silent) ∧ (bad 255).status ≠ 0 := by decide

theorem test_witness_GetRunsInOneRead :
    presents (asked 0x18FFFF 0 [good 0x85 0x83]) (BitVec.ofNat 8 (0x10 + Field.compQueue.index)) 0xFFFF ∧
    (asked 0x18FFFF 0 [good 0x85 0x83]).draw = some (good 0x85 0x83, .silent) ∧ (good 0x85 0x83).status = 0 ∧
    presents (asked 0x100000 0 [bad 4]) (BitVec.ofNat 8 (0x10 + Field.status.index)) 0 ∧ (bad 4).status ≠ 0 :=
  ⟨⟨rfl, rfl, rfl, rfl⟩, rfl, rfl, ⟨rfl, rfl, rfl, rfl⟩, by decide⟩

/-- A field that already holds the value, and one that does not. -/
theorem test_witness_SetReadComparesTheField :
    (busyIn .setRd (setInstr .compQueue 3) [good 0x85 0x83]).st = .setRd ∧
    (busyIn .setRd (setInstr .compQueue 3) [good 0x85 0x83]).draw = some (good 0x85 0x83, .silent) ∧
    (good 0x85 0x83).status = 0 ∧
    fieldOf (decodeConfig (wordOfBytes 0x85 0x83)) .compQueue = (3#16).extractLsb' 0 Field.compQueue.width ∧
    fieldOf (decodeConfig (wordOfBytes 0x85 0x83)) .status ≠ (0#16).extractLsb' 0 Field.status.width := by decide

theorem test_witness_SetWriteSendsTheLatchedWord :
    (writing (.setGain 1) 0x8383 [good 0 0]).st = .setWr ∧
    (writing (.setGain 1) 0x8383 [good 0 0]).wL = some 0x8383 ∧
    (writing (.setGain 1) 0x8383 [good 0 0]).draw = some (good 0 0, .silent) ∧ (bad 6).status ≠ 0 := by decide

/-- The three cases of a SET: failing read, unchanged field, changed field with its write. -/
theorem test_witness_SetRunsReadModifyWrite :
    presents (asked 0x220007 0 [bad 3]) (BitVec.ofNat 8 (0x20 + Field.gain.index)) 7 ∧
    (7#16).toNat < 2 ^ Field.gain.width ∧ (asked 0x220007 0 [bad 3]).draw = some (bad 3, .silent) ∧
    (bad 3).status ≠ 0 ∧ (good 0x85 0x83).status = 0 ∧
    (fieldOf (decodeConfig (wordOfBytes 0x8F 0x83)) .gain).toNat = (7#16).toNat ∧
    (fieldOf (decodeConfig (wordOfBytes 0x85 0x83)) .gain).toNat ≠ (7#16).toNat ∧
    (asked 0x220007 0 [good 0x85 0x83, bad 6]).gives [good 0x85 0x83, bad 6] .silent :=
  ⟨⟨rfl, rfl, rfl, rfl⟩, by decide, rfl, by decide, by decide, by decide, by decide, test_script_gives _ _ _⟩

theorem test_witness_WriteBackChangesOneFieldOnly :
    ∃ t, step (busyIn .setRd (.setGain 1) [good 0x85 0x83]) = .next t ∧ t.st = .setWr ∧ t.wL = some 0x8383 :=
  ⟨_, rfl, by decide⟩

theorem test_witness_MeasureStartsWithBitFifteenSet :
    (measuring .mReq 0x0583 none none [good 0 0]).st = .mReq ∧
    (measuring .mReq 0x0583 none none [good 0 0]).finL = some (decodeConfig 0x0583) ∧
    (measuring .mReq 0x0583 none none [good 0 0]).draw = some (good 0 0, .silent) ∧ (good 0 0).status = 0 ∧
    (measuring .mReq 0x0583 none none [bad 1]).draw = some (bad 1, .silent) ∧ (bad 1).status ≠ 0 := by decide

/-- The four cases of a poll; the limit just not reached and just reached; no limit. -/
theorem test_witness_MeasurePollsBitFifteen :
    (measuring .mPoll 0x8583 (some 1) (some 3) [good 0x7F 0xFF]).npoll = some 1 ∧ (bad 2).status ≠ 0 ∧
    (128 ≤ (good 0x80 0).b0.toNat ∧ (good 0x80 0).status = 0) ∧
    ((good 0x7F 0xFF).b0.toNat < 128 ∧ ∀ n, (some 3 : Option Nat) = some n → 1 + 1 < n) ∧
    (∃ n, (measuring .mPoll 0x8583 (some 1) (some 2) []).params.pollLimit = some n ∧ n ≤ 1 + 1) ∧
    (∀ n, (measuring .mPoll 0x8583 (some 1) none []).params.pollLimit = some n → 1 + 1 < n) := by
  refine ⟨rfl, by decide, by decide, ⟨by decide, ?_⟩, ⟨2, rfl, by decide⟩, ?_⟩
  · rintro n ⟨⟩; decide
  · rintro n ⟨⟩

theorem test_witness_MeasureRespondsWithTheResult :
    (measuring .mReady 0x8583 (some 0) none [good 0xFF 0xF0]).st = .mReady ∧ (good 0xFF 0xF0).status = 0 ∧
    (measuring .mReady 0x8583 (some 0) none [bad 1]).draw = some (bad 1, .silent) ∧ (bad 1).status ≠ 0 := by decide

/-- An answer given for ever begins with any number of itself. -/
theorem test_forever_gives (w : Nat) (a : Answer) (n : Nat) :
    Answers.give w (List.replicate n a) (.forever a) (.forever a) := by
  induction n with
  | zero => rfl
  | succ n ih => exact ⟨_, rfl, ih⟩

/-- A transport that is busy for ever meets the premise of the hang. -/
theorem test_witness_MeasureHangIsARunWithoutEnd :
    let s := { asked 0x300000 0x8583 [] with answers := .next (good 0 0) (.forever (good 0x7F 0xFF)) }
    presents s 0x30 0 ∧ s.params.pollLimit = none ∧ (good 0 0).status = 0 ∧
    (∀ n, ∃ busy rest, busy.length = n ∧ busyPolls busy ∧ s.gives (good 0 0 :: busy) rest) ∧
    (good 0x7F 0xFF).status = 0 ∧ conversionComplete (wordOfBytes 0x7F 0xFF) = false := by
  refine ⟨⟨rfl, rfl, rfl, rfl⟩, rfl, rfl, fun n => ?_, rfl, by decide⟩
  refine ⟨List.replicate n (good 0x7F 0xFF), .forever (good 0x7F 0xFF), List.length_replicate, ?_, _, rfl,
    test_forever_gives _ _ n⟩
  intro a ha
  rw [List.eq_of_mem_replicate ha]
  decide

/-- The busy polls of the MEASURE witnesses. -/
theorem test_busyPolls : busyPolls [good 0x05 0x83, good 0x7F 0xFF] := by
  intro a ha
  rcases List.mem_pair.1 ha with rfl | rfl <;> decide

/-- Two busy polls below a limit of three, and the limit of `none`. -/
theorem test_witness_MeasureCallsAreCounted :
    let s := { asked 0x300000 0x8583
      [good 0 0, good 0x05 0x83, good 0x7F 0xFF, good 0x80 0, good 0xFF 0xF0] with
      params := { Params.default with pollLimit := some 3 } }
    presents s 0x30 0 ∧
    s.gives (good 0 0 :: [good 0x05 0x83, good 0x7F 0xFF] ++ [good 0x80 0, good 0xFF 0xF0]) .silent ∧
    (good 0 0).status = 0 ∧ conversionComplete (wordOfBytes (good 0x80 0).b0 (good 0x80 0).b1) = true ∧
    (∀ n, s.params.pollLimit = some n → [good 0x05 0x83, good 0x7F 0xFF].length < n) := by
  refine ⟨⟨rfl, rfl, rfl, rfl⟩, test_script_gives _ _ _, rfl, by decide, ?_⟩
  rintro n ⟨⟩; decide

theorem test_witness_FailingPollAbortsMeasure :
    let s := asked 0x30FFFF 0x8583 [good 0 0, good 0x05 0x83, good 0x7F 0xFF, bad 9]
    presents s 0x30 0xFFFF ∧ s.gives (good 0 0 :: [good 0x05 0x83, good 0x7F 0xFF] ++ [bad 9]) .silent ∧
    (bad 9).status ≠ 0 ∧ (∀ n, s.params.pollLimit = some n → [good 0x05 0x83, good 0x7F 0xFF].length < n) := by
  refine ⟨⟨rfl, rfl, rfl, rfl⟩, test_script_gives _ _ _, by decide, ?_⟩
  rintro n ⟨⟩

theorem test_witness_UnboundedMeasureHangs :
    let s := asked 0x300000 0x8583 [good 0 0, good 0x05 0x83, good 0x7F 0xFF]
    presents s 0x30 0 ∧ s.gives (good 0 0 :: [good 0x05 0x83, good 0x7F 0xFF]) .silent ∧
    (good 0 0).status = 0 ∧ s.params.pollLimit = none := ⟨⟨rfl, rfl, rfl, rfl⟩, test_script_gives _ _ _, rfl, rfl⟩

theorem test_witness_BoundedMeasureTimesOut :
    let s := { asked 0x300000 0x8583 [good 0 0, good 0x05 0x83, good 0x7F 0xFF] with
      params := { Params.default with pollLimit := some 2 } }
    presents s 0x30 0 ∧ s.gives (good 0 0 :: [good 0x05 0x83, good 0x7F 0xFF]) .silent ∧
    (good 0 0).status = 0 ∧ 1 ≤ [good 0x05 0x83, good 0x7F 0xFF].length ∧
    s.params.pollLimit = some [good 0x05 0x83, good 0x7F 0xFF].length :=
  ⟨⟨rfl, rfl, rfl, rfl⟩, test_script_gives _ _ _, rfl, by decide, rfl⟩

theorem test_witness_ThresholdGetSignExtends :
    (busyIn .thRd (.getLoThresh 7) [good 0x80 0]).st = .thRd ∧ (good 0x80 0).status = 0 ∧
    (busyIn .thRd (.getHiThresh 7) [bad 8]).draw = some (bad 8, .silent) ∧ (bad 8).status ≠ 0 := by decide

theorem test_witness_ThresholdSetLeftJustifies :
    (busyIn .thWr (.setLoThresh 0xF800) [good 0 0]).st = .thWr ∧
    (busyIn .thWr (.setHiThresh 0x07FF) [bad 8]).draw = some (bad 8, .silent) ∧
    (-2048 ≤ (0xF800#16).toInt ∧ (0xF800#16).toInt ≤ 2047) ∧
    (-2048 ≤ (0x07FF#16).toInt ∧ (0x07FF#16).toInt ≤ 2047) := by decide

theorem test_witness_ThresholdCommandsMakeOneCall :
    presents (asked 0x400000 0 [good 0x80 0]) 0x40 0 ∧ presents (asked 0x42FFFF 0 [bad 8]) 0x42 0xFFFF ∧
    presents (asked 0x41F800 0 [good 0 0]) 0x41 0xF800 ∧ presents (asked 0x4307FF 0 [bad 3]) 0x43 0x07FF ∧
    (asked 0x400000 0 [good 0x80 0]).draw = some (good 0x80 0, .silent) :=
  ⟨⟨rfl, rfl, rfl, rfl⟩, ⟨rfl, rfl, rfl, rfl⟩, ⟨rfl, rfl, rfl, rfl⟩, ⟨rfl, rfl, rfl, rfl⟩, rfl⟩

theorem test_witness_StepRunsTheDecodedCommand :
    ((asked 0x120000 0 []).reqValid = true ∧ decode (asked 0x120000 0 []).reqCmd = .command (.getGain 0)) ∧
    ((busyIn .setRd (.setGain 7) []).st ≠ .idle ∧ (busyIn .setRd (.setGain 7) []).opL = some 0x22 ∧
      (busyIn .setRd (.setGain 7) []).argL = some 7 ∧ decode (0x22#8 ++ 7#16) = .command (.setGain 7)) := by decide

/-- A word of another command, and MEASURE. -/
theorem test_witness_AcceptLatchesThePresentedWord :
    (decode 0x4307FF = .command (.setHiThresh 0x07FF) ∧ (busyPath (.setHiThresh 0x07FF)).head? = some .thWr) ∧
    (decode 0x300000 = .command (.measure 0) ∧ (busyPath (.measure 0)).head? = some .mReq) ∧
    (asked 0x300000 0x8583 []).st = .idle ∧ (asked 0x300000 0x8583 []).reqValid = true := by decide

theorem test_witness_IdleBlockWaitsForACommand :
    (State.reset.st = .idle ∧ State.reset.reqValid = false ∧ State.reset.callerQueue = []) ∧
    ({ State.reset with callerQueue := [⟨0x120000, decodeConfig 0⟩] } : State).callerQueue =
      [⟨0x120000, decodeConfig 0⟩] := by decide

/-- A step of a block whose mark is set, and one that sets it. -/
theorem test_witness_RefusedMarkIsSticky :
    (∃ t, step { asked 0x120000 0 [] with refused := true } = .next t) ∧
    (∃ t, step (asked 0x220008 0 []) = .next t ∧ (asked 0x220008 0 []).refused = false ∧ t.refused = true) :=
  ⟨⟨_, rfl⟩, ⟨_, rfl, by decide⟩⟩

theorem test_witness_BusyStepIssuesItsNamedCall :
    (∃ t, step (busyIn .getRd (.getMode 0) [good 0x85 0x83]) = .next t) ∧
    (busyIn .getRd (.getMode 0) [good 0x85 0x83]).st ≠ .idle ∧
    (∃ t, step (asked 0x130000 0 []) = .next t) ∧ (asked 0x130000 0 []).st = .idle :=
  ⟨⟨_, rfl⟩, by decide, ⟨_, rfl⟩, rfl⟩

/-- The first and the last busy state of MEASURE, and the write of a SET. -/
theorem test_witness_FailingCallAbortsAnyCommand :
    latchesFit (measuring .mReq 0x8583 none none [bad 5]) = true ∧
    latchesFit (measuring .mReady 0x8583 (some 0) none [bad 1]) = true ∧
    latchesFit (writing (.setGain 1) 0x8383 [bad 6]) = true ∧
    (writing (.setGain 1) 0x8383 [bad 6]).st ≠ .idle ∧
    (writing (.setGain 1) 0x8383 [bad 6]).resetPin = .released ∧ (bad 6).status ≠ 0 := by decide

theorem test_witness_SilentTransportLeavesTheBlockStuck :
    latchesFit (measuring .mPoll 0x8583 (some 7) none []) = true ∧
    (measuring .mPoll 0x8583 (some 7) none []).st ≠ .idle ∧
    (measuring .mPoll 0x8583 (some 7) none []).resetPin = .released ∧
    (measuring .mPoll 0x8583 (some 7) none []).draw = none := by decide

/-- Invariant states with a step and without one. -/
theorem test_witness_OnlySilenceStopsARun :
    Inv (busyIn .thRd (.getLoThresh 0) [good 0x80 0]) ∧ Inv (busyIn .thRd (.getLoThresh 0) []) := by decide

/-- A step that ends the command, one that does not, and an ended run. -/
theorem test_witness_CommandsAndRunsEnd :
    (latchesFit (busyIn .thRd (.getLoThresh 0) [bad 8]) = true ∧
      ∃ t, step (busyIn .thRd (.getLoThresh 0) [bad 8]) = .next t ∧ t.rspValid = true) ∧
    (latchesFit (busyIn .setRd (.setGain 1) [good 0x85 0x83]) = true ∧
      ∃ t, step (busyIn .setRd (.setGain 1) [good 0x85 0x83]) = .next t ∧ t.rspValid = false) ∧
    State.reset.runEnded = true ∧ State.reset.resetPin = .released :=
  ⟨⟨by decide, _, rfl, by decide⟩, ⟨by decide, _, rfl, by decide⟩, by decide, rfl⟩

theorem test_witness_BlockResetEndsTheCommand :
    ({ measuring .mPoll 0x8583 (some 0) none [] with resetPin := .asserted true } : State).resetPin = .asserted true ∧
    namedCall (measuring .mPoll 0x8583 (some 0) none []) = some ⟨0, .config, .read, 2⟩ ∧
    ({ State.reset with resetPin := .asserted false } : State).resetPin = .asserted false := by decide

/-- An accept, a poll at the last count below the limit, and a completion. -/
theorem test_witness_EveryStepKeepsTheInvariant :
    (Inv (asked 0x300000 0x8583 []) ∧ ∃ t, step (asked 0x300000 0x8583 []) = .next t) ∧
    (Inv (measuring .mPoll 0x8583 (some 2) (some 3) [good 0x05 0x83]) ∧
      ∃ t, step (measuring .mPoll 0x8583 (some 2) (some 3) [good 0x05 0x83]) = .next t) ∧
    (Inv (writing (.setGain 1) 0x8383 [bad 255]) ∧ ∃ t, step (writing (.setGain 1) 0x8383 [bad 255]) = .next t) :=
  ⟨⟨by decide, _, rfl⟩, ⟨by decide, _, rfl⟩, ⟨by decide, _, rfl⟩⟩

theorem test_witness_EveryCallIsTwoBytesAndNeverWritesTheResult :
    ∃ t, step (writing (.setGain 1) 0x8383 [good 0 0]) = .next t := ⟨_, rfl⟩

/-- A command in `IDLE` and a command in a busy state. -/
theorem test_witness_EveryCommandKeepsTheEnvironment :
    (∃ t, exec (.getMode 0) (asked 0x130000 0 [good 0 0]) = .next t ∧ (asked 0x130000 0 [good 0 0]).st = .idle) ∧
    (∃ t, exec (.getMode 0) (busyIn .getRd (.getMode 0) [good 0 0]) = .next t ∧
      (busyIn .getRd (.getMode 0) [good 0 0]).st ≠ .idle) := ⟨⟨_, rfl, rfl⟩, ⟨_, rfl, by decide⟩⟩

/-- A failing read, and a write in each of the three writing states. -/
theorem test_witness_BytesOfAFailedReadAreIgnored :
    ((measuring .mPoll 0x8583 (some 0) none [bad 2]).draw = some (bad 2, .silent) ∧ (bad 2).status ≠ 0 ∧
      (measuring .mPoll 0x8583 (some 0) none [bad 2]).st ≠ .idle) ∧
    (writing (.setGain 1) 0x8383 [good 0 0]).st = .setWr ∧ (measuring .mReq 0x8583 none none [good 0 0]).st = .mReq ∧
    (busyIn .thWr (.setLoThresh 5) [good 0 0]).st = .thWr := by decide

/-- No response; a response with fields; a response with a code. -/
theorem test_witness_CallerReadsOnlyNamedResponses :
    State.reset.rspValid = false ∧ (okResponse 0).fields = none ∧ (okResponse 0).code = none ∧
    ({ kind := .ok, value := 0, fields := some (decodeConfig 0x8583), code := none } : Response).fields =
      some (decodeConfig 0x8583) ∧ (transportErrorResponse 7).code = some 7 := by decide

theorem test_witness_AssembleGivesTheOpcodes :
    3 < 2 ^ Field.compQueue.width ∧ ¬ 4 < 2 ^ Field.compQueue.width ∧ ((-2048 : Int) ≤ -2048 ∧ (-2048 : Int) ≤ 2047) ∧
    ((-2048 : Int) ≤ 2047 ∧ (2047 : Int) ≤ 2047) ∧ ¬ ((-2048 : Int) ≤ 2048 ∧ (2048 : Int) ≤ 2047) := by decide

theorem test_witness_AssembledCommandsAreAdmitted (port : ConfigFields) :
    assemble port (.set .gain 7) = some [⟨0x220007, port⟩] ∧ (⟨0x220007, port⟩ : Request) ∈ [⟨0x220007, port⟩] :=
  ⟨rfl, List.mem_singleton.2 rfl⟩

theorem test_witness_CfgEncodeWordRespondsWithIt (port : ConfigFields) :
    let s := { State.reset with callerQueue := [⟨0x500000, decodeConfig 0x8583⟩] }
    assemble port (.cfgEncodeW 0x8583) = some [⟨0x500000, decodeConfig 0x8583⟩] ∧
    s.callerQueue = [⟨0x500000, decodeConfig 0x8583⟩] ++ [] ∧ s.st = .idle ∧ s.reqValid = false :=
  ⟨rfl, rfl, rfl, rfl⟩

/-- The two ends of the range, the low threshold above the high one. -/
theorem test_witness_SetThWritesBothThresholds (port : ConfigFields) :
    let s := { State.reset with
      callerQueue := [⟨0x4107FF, port⟩, ⟨0x43F800, port⟩], answers := script [good 0 0, good 0 0] (.forever (bad 1)) }
    assemble port (.setTh 2047 (-2048)) = some [⟨0x4107FF, port⟩, ⟨0x43F800, port⟩] ∧
    s.callerQueue = [⟨0x4107FF, port⟩, ⟨0x43F800, port⟩] ++ [] ∧
    s.gives [good 0 0, good 0 0] (.forever (bad 1)) ∧ (good 0 0).status = 0 :=
  ⟨rfl, rfl, test_script_gives _ _ _, rfl⟩

end Sys2Proof.Tests
end

namespace Sys2Proof.Machine

open Sys2Proof

/-! ### The environment of a command

What a command leaves alone (00_scope.md R7; 10_state.md R25; 40_sequencer.md R101), apart from the answers it draws. -/

section

variable {i : Instr} {s t u : State}

/-- From `s` to `t` the parameters, the port's word and fields, the caller's queue and the reset input are kept, the mark
`refused` is not cleared, and the trace only grows. -/
structure KeepsEnvironment (s t : State) : Prop where
  params : t.params = s.params
  reqCmd : t.reqCmd = s.reqCmd
  reqFields : t.reqFields = s.reqFields
  callerQueue : t.callerQueue = s.callerQueue
  resetPin : t.resetPin = s.resetPin
  refused : s.refused = true → t.refused = true
  trace : s.trace <+: t.trace

theorem KeepsEnvironment.trans (h : KeepsEnvironment s t) (h' : KeepsEnvironment t u) : KeepsEnvironment s u where
  params := h'.params.trans h.params
  reqCmd := h'.reqCmd.trans h.reqCmd
  reqFields := h'.reqFields.trans h.reqFields
  callerQueue := h'.callerQueue.trans h.callerQueue
  resetPin := h'.resetPin.trans h.resetPin
  refused := h'.refused ∘ h.refused
  trace := h.trace.trans h'.trace

theorem takeRequest_keepsEnvironment : KeepsEnvironment s (takeRequest s) :=
  ⟨rfl, rfl, rfl, rfl, rfl, id, List.prefix_rfl⟩

theorem accept_keepsEnvironment (i : Instr) (first : Seq) : KeepsEnvironment s (accept i first s) :=
  ⟨rfl, rfl, rfl, rfl, rfl, id, List.prefix_rfl⟩

theorem refuse_keepsEnvironment (r : RefuseReason) : KeepsEnvironment s (refuse r s) :=
  ⟨rfl, rfl, rfl, rfl, rfl, fun _ => rfl, List.prefix_rfl⟩

theorem answered_keepsEnvironment (c : Call) (a : Answer) (rest : Answers) :
    KeepsEnvironment s (answered c a rest s) :=
  ⟨rfl, rfl, rfl, rfl, rfl, id, List.prefix_append ..⟩

theorem complete_keepsEnvironment (kind : RspKind) (v : Word) (F : Option ConfigFields) (code : Nat) :
    KeepsEnvironment s (complete kind v F code s) :=
  ⟨rfl, rfl, rfl, rfl, rfl, id, List.prefix_append ..⟩

/-- The sequencer state and the latches a command works with are no part of the environment. -/
theorem latches_keepEnvironment (st : Seq) (finL : Option ConfigFields) (wL : Option Word) (npoll : Option Nat) :
    KeepsEnvironment s { s with st := st, finL := finL, wL := wL, npoll := npoll } :=
  ⟨rfl, rfl, rfl, rfl, rfl, id, List.prefix_rfl⟩

/-- Every move is made of shared operations and latch updates, each of which keeps the environment. -/
theorem Move.keepsEnvironment (m : Move i s t) : KeepsEnvironment s t := by
  cases m with
  | accepted first => exact accept_keepsEnvironment i first
  | acceptedMeasure a => exact (accept_keepsEnvironment (.measure a) .mReq).trans (latches_keepEnvironment ..)
  | pure v F => exact takeRequest_keepsEnvironment.trans (complete_keepsEnvironment .ok v F 0)
  | refused r => exact refuse_keepsEnvironment r
  | failed c a rest => exact (answered_keepsEnvironment c a rest).trans (complete_keepsEnvironment ..)
  | done c a rest => exact (answered_keepsEnvironment c a rest).trans (complete_keepsEnvironment ..)
  | toWrite f arg a rest => exact (answered_keepsEnvironment _ a rest).trans (latches_keepEnvironment ..)
  | started g F a rest => exact (answered_keepsEnvironment _ a rest).trans (latches_keepEnvironment ..)
  | ready g n a rest => exact (answered_keepsEnvironment _ a rest).trans (latches_keepEnvironment ..)
  | polled g n a rest => exact (answered_keepsEnvironment _ a rest).trans (latches_keepEnvironment ..)
  | timedOut g n a rest =>
    exact ((answered_keepsEnvironment _ a rest).trans (latches_keepEnvironment ..)).trans
      (complete_keepsEnvironment ..)

/-- An idle move makes no call; a busy one makes one call, whose answer it draws (40_sequencer.md R102, R106). -/
theorem Move.draws (m : Move i s t) :
    (s.st = .idle ∧ t.answers = s.answers) ∨ (s.st ≠ .idle ∧ ∃ a, s.draw = some (a, t.answers)) := by
  cases m with
  | accepted _ idle => exact .inl ⟨idle, rfl⟩
  | acceptedMeasure _ idle => exact .inl ⟨idle, rfl⟩
  | pure _ _ idle => exact .inl ⟨idle, rfl⟩
  | refused _ idle => exact .inl ⟨idle, rfl⟩
  | failed c a rest path call ans => exact .inr ⟨busyPath_ne_idle path, a, ans⟩
  | done c a rest v path call ans => exact .inr ⟨busyPath_ne_idle path, a, ans⟩
  | toWrite f arg a rest is st ans => exact .inr ⟨by simp [st], a, ans⟩
  | started g F a rest is st fin ans => exact .inr ⟨by simp [st], a, ans⟩
  | ready g n a rest is st polls ans => exact .inr ⟨by simp [st], a, ans⟩
  | polled g n a rest is st polls ans => exact .inr ⟨by simp [st], a, ans⟩
  | timedOut g n a rest is st polls ans => exact .inr ⟨by simp [st], a, ans⟩

end

/-- Settles O49, by the cases of a command's move. -/
theorem everyCommandKeepsTheEnvironment : Obligations.EveryCommandKeepsTheEnvironment := by
  intro i s t h
  have m := exec_move h
  obtain ⟨params, reqCmd, reqFields, callerQueue, resetPin, refused, trace⟩ := m.keepsEnvironment
  refine ⟨params, reqCmd, reqFields, callerQueue, resetPin, refused, ?_, trace⟩
  obtain ⟨idle, kept⟩ | ⟨busy, a, drawn⟩ := m.draws
  · rwa [if_pos idle]
  · rw [if_neg busy, drawn]; rfl

end Sys2Proof.Machine

namespace Sys2Proof

/-- A word decodes only to a command of that opcode and that argument, which its format admits (30_encoding.md R83, R85,
R88). -/
theorem decodeParts_command {op : BitVec 8} {arg : Word} {i : Instr} (h : decodeParts op arg = .command i) :
    opcode i = op ∧ i.argument = arg ∧ i.wellFormed = true := by
  unfold decodeParts at h
  split at h <;> rename_i hop
  case h_10 | h_11 | h_12 | h_13 | h_14 | h_15 | h_16 | h_17 | h_18 =>
    obtain ⟨fits, rfl⟩ := decodeSet_command.1 h
    exact ⟨BitVec.eq_of_toNat_eq hop.symm, rfl, fits⟩
  case h_21 | h_23 | h_26 =>
    obtain ⟨fits, rfl⟩ := decodeSigned_command.1 h
    exact ⟨BitVec.eq_of_toNat_eq hop.symm, rfl, fits⟩
  case h_29 => cases h
  all_goals
    cases h
    exact ⟨BitVec.eq_of_toNat_eq hop.symm, rfl, rfl⟩

end Sys2Proof

namespace Sys2Proof.Machine

open Sys2Proof

section

variable {i : Instr} {s t : State}

/-! ### The next states of a step

What a step can answer, said once (40_sequencer.md R100, R102, R106): `step_move` turns a step into one of the cases
below. -/

/-- Every next state of a step from `s`. -/
inductive StepMove (s : State) : State → Prop where
  | reset (u : Bool) (pin : s.resetPin = .asserted u) : StepMove s (blockReset u s)
  | transaction {t : State} (i : Instr) (pin : s.resetPin = .released) (busy : s.st ≠ .idle)
      (latched : latchedInstr s = some i) (move : Move i s t) : StepMove s t
  | accept {t : State} (i : Instr) (pin : s.resetPin = .released) (idle : s.st = .idle) (valid : s.reqValid = true)
      (decodes : decode s.reqCmd = .command i) (move : Move i s t) : StepMove s t
  | refuse (reason : RefuseReason) (pin : s.resetPin = .released) (idle : s.st = .idle) (valid : s.reqValid = true)
      (refuses : decode s.reqCmd = .refuse reason) : StepMove s (refuse reason s)
  | caller (pin : s.resetPin = .released) (idle : s.st = .idle) (nothing : s.reqValid = false) :
      StepMove s (callerMove s)

theorem step_move (h : step s = .next t) : StepMove s t := by
  obtain ⟨u, pin, hs⟩ | ⟨pin, busy, hs⟩ | ⟨pin, idle, valid, hs⟩ | ⟨pin, idle, nothing, hs⟩ := step_cases s <;>
    rw [hs] at h
  · cases h; exact .reset u pin
  · cases latched : latchedInstr s with
    | some i => exact .transaction i pin busy latched (exec_move (transactionStep_latched latched ▸ h))
    | none => simp [transactionStep, latched] at h
  · cases decodes : decode s.reqCmd with
    | command i => exact .accept i pin idle valid decodes (exec_move (acceptStep_command decodes ▸ h))
    | refuse reason =>
      rw [acceptStep_refuse decodes] at h
      cases h
      exact .refuse reason pin idle valid decodes
  · cases h; exact .caller pin idle nothing

/-- The caller's move changes only the port and the caller's queue (40_sequencer.md R101). -/
theorem callerMove_eq (s : State) : ∃ valid cmd fields queue,
    callerMove s = { s with reqValid := valid, reqCmd := cmd, reqFields := fields, callerQueue := queue } := by
  cases hq : s.callerQueue with
  | nil => exact ⟨_, _, _, _, callerMove_waits s hq⟩
  | cons r rest => exact ⟨_, _, _, _, callerMove_presents s hq⟩

/-! ### The latched command -/

/-- The latched command is the one whose opcode and argument the latches hold. -/
theorem latchedInstr_some (h : latchedInstr s = some i) :
    s.opL = some (opcode i) ∧ s.argL = some i.argument ∧ decodeParts (opcode i) i.argument = .command i := by
  unfold latchedInstr at h
  split at h
  · next op arg hop harg =>
    split at h
    · next j hd =>
      cases h
      obtain ⟨rfl, rfl, -⟩ := decodeParts_command hd
      exact ⟨hop, harg, hd⟩
    · cases h
  · cases h

/-- Latching the latched command again changes nothing. -/
theorem withLatches_latched (h : latchedInstr s = some i) : withLatches i s = s := by
  obtain ⟨hop, harg, -⟩ := latchedInstr_some h
  rw [withLatches, ← hop, ← harg]

/-- The command of a word is the one whose opcode and argument the word holds, and its format admits it. -/
theorem decode_command {w : Cmd} (h : decode w = .command i) :
    decodeParts (opcode i) i.argument = .command i ∧ i.wellFormed = true := by
  obtain ⟨hop, harg, wf⟩ := decodeParts_command h
  exact ⟨by rwa [hop, harg], wf⟩

/-! ### The mark `refused` (10_state.md R25) -/

/-- A command leaves the mark as it is, unless it is refused in its accept step. -/
theorem Move.refused_eq (m : Move i s t) : t.refused = s.refused ∨ (s.st = .idle ∧ i.wellFormed = false) := by
  cases m with
  | refused r idle bad => exact .inr ⟨idle, bad⟩
  | _ => exact .inl rfl

/-! ### The calls a command issues (10_state.md R22, R23) -/

theorem callsOf_append (es fs : List Event) : callsOf (es ++ fs) = callsOf es ++ callsOf fs := List.filterMap_append

@[simp] theorem callsOf_response (p : Response) : callsOf [.response p] = [] := rfl

/-- Every call is recorded as a call with its status. -/
theorem callEvent_eq_call (c : Call) (a : Answer) : ∃ bytes, callEvent c a = .call c a.status bytes := by
  unfold callEvent
  split <;> exact ⟨_, rfl⟩

theorem namedCall_setRd (h : s.st = .setRd) : namedCall s = some (readCall .config s) := by simp [namedCall, h]

theorem namedCall_mPoll (h : s.st = .mPoll) : namedCall s = some (readCall .config s) := by simp [namedCall, h]

theorem namedCall_mReq {F : ConfigFields} (h : s.st = .mReq) (fin : s.finL = some F) :
    namedCall s = some (writeCall .config (encodeConfig (startFields F)) s) := by
  simp [namedCall, h, fin]

/-- A move in `IDLE` issues no call. -/
theorem Move.callsOf_idle (m : Move i s t) (idle : s.st = .idle) : callsOf t.trace = callsOf s.trace := by
  cases m with
  | accepted | acceptedMeasure | refused => rfl
  | pure v F => simp [callsOf_append]
  | failed _ _ _ path | done _ _ _ _ path => exact absurd idle (busyPath_ne_idle path)
  | toWrite _ _ _ _ _ st | started _ _ _ _ _ st | ready _ _ _ _ _ st | polled _ _ _ _ _ st | timedOut _ _ _ _ _ st =>
    simp [st] at idle

/-- A move of a busy state records the call that `st` names, answered, and then at most a response. -/
theorem Move.trace_busy (m : Move i s t) (busy : s.st ≠ .idle) : ∃ c a more,
    namedCall (withLatches i s) = some c ∧ t.trace = s.trace ++ callEvent c a :: more ∧ callsOf more = [] := by
  cases m with
  | accepted _ idle | acceptedMeasure _ idle | pure _ _ idle | refused _ idle => exact absurd idle busy
  | failed c a rest path call | done c a rest v path call =>
    exact ⟨c, a, _, call, List.append_assoc .., rfl⟩
  | toWrite f arg a rest is st => exact ⟨readCall .config s, a, [], namedCall_setRd st, rfl, rfl⟩
  | started g F a rest is st fin => exact ⟨writeCall .config _ s, a, [], namedCall_mReq st fin, rfl, rfl⟩
  | ready g n a rest is st | polled g n a rest is st =>
    exact ⟨readCall .config s, a, [], namedCall_mPoll st, rfl, rfl⟩
  | timedOut g n a rest is st =>
    exact ⟨readCall .config s, a, _, namedCall_mPoll st, List.append_assoc .., rfl⟩

end

/-- Settles O38: a reset, a caller's move and every command keep the mark, and a decoded word is admitted. -/
theorem refusedMarkIsSticky : Obligations.RefusedMarkIsSticky := by
  intro s t h
  cases step_move h with
  | reset u => exact ⟨id, fun clear set => by simp [clear] at set⟩
  | transaction i pin busy latched m =>
    refine ⟨m.keepsEnvironment.refused, fun clear set => ?_⟩
    obtain kept | ⟨idle, -⟩ := m.refused_eq
    · simp [kept, clear] at set
    · exact absurd idle busy
  | accept i pin idle valid decodes m =>
    refine ⟨m.keepsEnvironment.refused, fun clear set => ?_⟩
    obtain kept | ⟨-, bad⟩ := m.refused_eq
    · simp [kept, clear] at set
    · simp [(decode_command decodes).2] at bad
  | refuse reason pin idle valid refuses => exact ⟨fun _ => rfl, fun _ _ => ⟨idle, valid, reason, refuses⟩⟩
  | caller =>
    obtain ⟨valid, cmd, fields, queue, eq⟩ := callerMove_eq s
    rw [eq]
    exact ⟨id, fun clear set => by simp [clear] at set⟩

/-- Settles O39: a busy step is a move of the latched command, whose call is the one `st` names for the latches held. -/
theorem busyStepIssuesItsNamedCall : Obligations.BusyStepIssuesItsNamedCall := by
  intro s t released h
  cases step_move h with
  | reset u pin => simp [released] at pin
  | transaction i pin busy latched m =>
    refine ⟨fun _ => ?_, fun idle => absurd idle busy⟩
    obtain ⟨c, a, more, call, trace, noCalls⟩ := m.trace_busy busy
    obtain ⟨bytes, event⟩ := callEvent_eq_call c a
    rw [withLatches_latched latched] at call
    exact ⟨c, a.status, bytes, more, call, event ▸ trace, noCalls⟩
  | accept i pin idle valid decodes m => exact ⟨(absurd idle ·), m.callsOf_idle⟩
  | refuse reason pin idle => exact ⟨(absurd idle ·), fun _ => rfl⟩
  | caller pin idle =>
    obtain ⟨valid, cmd, fields, queue, eq⟩ := callerMove_eq s
    exact ⟨(absurd idle ·), fun _ => by rw [eq]⟩

section

variable {i : Instr} {s t : State} {c : Call} {a : Answer} {rest : Answers} {r : Reg} {v : Word}

/-! ### Legal calls and events (10_state.md R42; 20_memory.md R52, R54, R57, R59) -/

theorem callLegal_readCall : callLegal s.params (readCall r s) = true := by simp [callLegal, readCall]

theorem callLegal_writeConfig : callLegal s.params (writeCall .config v s) = true := by
  simp [callLegal, writeCall, Reg.writable]

/-- A threshold word has four zeros at the right (41_codec.md R126). -/
theorem thresholdEncode_padding (t : Code) : (secondByte (thresholdEncode t)).extractLsb' 0 4 = 0#4 := by
  unfold secondByte thresholdEncode
  ext k hk
  simpa using (BitVec.getLsbD_append (x := t) (y := 0#4) (i := k)).trans (by simp [hk])

theorem callLegal_writeThreshold (op : BitVec 8) (t : Code) :
    callLegal s.params (writeCall (thresholdReg op) (thresholdEncode t) s) = true := by
  have writable : (thresholdReg op).writable = true := by
    unfold thresholdReg
    split <;> rfl
  simp [callLegal, writeCall, writable, thresholdEncode_padding]

/-- The call that `st` names is legal, whatever the latches hold. -/
theorem callLegal_namedCall (h : namedCall s = some c) : callLegal s.params c = true := by
  cases st : s.st with
  | idle => simp [namedCall, st] at h
  | getRd | setRd | mPoll | mReady =>
    simp only [namedCall, st, Option.some.injEq] at h
    exact h ▸ callLegal_readCall
  | setWr | mReq =>
    simp only [namedCall, st, Option.map_eq_some_iff] at h
    obtain ⟨_, -, rfl⟩ := h
    exact callLegal_writeConfig
  | thRd =>
    simp only [namedCall, st, Option.map_eq_some_iff] at h
    obtain ⟨_, -, rfl⟩ := h
    exact callLegal_readCall
  | thWr =>
    simp only [namedCall, st] at h
    split at h
    · cases h; exact callLegal_writeThreshold ..
    · cases h

theorem callLegal_latched (h : namedCall (withLatches i s) = some c) : callLegal s.params c = true :=
  callLegal_namedCall (s := withLatches i s) h

/-- A legal call leaves a legal event: only a successful read has bytes. -/
theorem eventLegal_callEvent {p : Params} (legal : callLegal p c = true) (fits : a.status < 2 ^ p.statusW) :
    eventLegal p (callEvent c a) = true := by
  cases access : c.access with
  | read =>
    by_cases good : a.status = 0
    · simp [callEvent, eventLegal, legal, access, good]
    · simp [callEvent, eventLegal, legal, access, good, fits]
  | write => simp [callEvent, eventLegal, legal, access, fits]

/-! ### The part of the invariant that is about the environment -/

/-- The answers to come, the parameters and the trace are as `Inv` has them. -/
def EnvFit (s : State) : Prop :=
  answersFit s = true ∧ paramsFit s.params = true ∧ s.trace.all (eventLegal s.params) = true

theorem inv_iff : Inv s ↔ latchesFit s = true ∧ responseFits s = true ∧ pollsBounded s = true ∧ EnvFit s := Iff.rfl

theorem EnvFit.status_lt (h : EnvFit s) (ans : s.draw = some (a, rest)) : a.status < 2 ^ s.params.statusW :=
  (fit_draw h.1 ans).1

theorem EnvFit.append {es : List Event} (h : EnvFit s) (legal : es.all (eventLegal s.params) = true) :
    EnvFit { s with trace := s.trace ++ es } := by
  obtain ⟨answers, params, trace⟩ := h
  exact ⟨answers, params, by simp [trace, legal]⟩

/-- An answered legal call keeps it. -/
theorem EnvFit.answered (h : EnvFit s) (legal : callLegal s.params c = true) (ans : s.draw = some (a, rest)) :
    EnvFit (answered c a rest s) := by
  obtain ⟨-, params, trace⟩ := h.append (es := [callEvent c a])
    (by simp [eventLegal_callEvent legal (h.status_lt ans)])
  exact ⟨(fit_draw h.1 ans).2, params, trace⟩

/-! ### The latches that fit each sequencer state -/

theorem latchesFit_idle (h : s.st = .idle) : latchesFit s = true ↔
    s.opL = none ∧ s.argL = none ∧ s.finL = none ∧ s.wL = none ∧ s.npoll = none := by
  simp [latchesFit, h, and_assoc]

/-- A busy block on the path of its command holds the other latches its next rules read, and no more (10_state.md R21). -/
theorem latchesFit_busy (busy : s.st ≠ .idle) (latched : latchedInstr s = some i) : latchesFit s = true ↔
    s.reqValid = false ∧ s.rspValid = false ∧ (busyPath i).contains s.st = true ∧
      s.finL.isSome = (s.st == .mReq || s.st == .mPoll || s.st == .mReady) ∧
      s.wL.isSome = (s.st == .setWr) ∧ s.npoll.isSome = (s.st == .mPoll || s.st == .mReady) := by
  simp [latchesFit, busy, onPath, latched, and_assoc]

/-! ### Fewer than `POLL_LIMIT` polls were busy (43_measure.md R182) -/

theorem pollsBounded_of_not_polling (h : s.st ≠ .mPoll) : pollsBounded s = true := by
  unfold pollsBounded
  split <;> simp [h]

theorem pollsBounded_of_below {k : Nat} (polls : s.npoll = some k)
    (below : pollLimitReached s.params.pollLimit k = false) : pollsBounded s = true := by
  unfold pollsBounded
  cases limit : s.params.pollLimit with
  | none => rfl
  | some n =>
    have : k < n := by simpa [pollLimitReached, limit] using below
    simp [polls, this]

theorem pollLimitReached_zero {p : Params} (h : paramsFit p = true) : pollLimitReached p.pollLimit 0 = false := by
  cases limit : p.pollLimit with
  | none => rfl
  | some n => simpa [pollLimitReached, paramsFit, limit, Nat.pos_iff_ne_zero] using h

/-- Only a limit that is there is reached. -/
theorem isSome_of_pollLimitReached {limit : Option Nat} {k : Nat} (h : pollLimitReached limit k = true) :
    limit.isSome = true := by
  cases limit with
  | none => cases h
  | some n => rfl

/-! ### States that meet the invariant -/

/-- A waiting block without a response meets the invariant if its environment does. -/
theorem inv_waiting (env : EnvFit s) (idle : s.st = .idle) (latches : s.opL = none ∧ s.argL = none ∧
    s.finL = none ∧ s.wL = none ∧ s.npoll = none) (rsp : s.rspValid = false) : Inv s :=
  inv_iff.2 ⟨(latchesFit_idle idle).2 latches, by simp [responseFits, rsp],
    pollsBounded_of_not_polling (by simp [idle]), env⟩

/-- A completion with a legal response meets the invariant, whatever the block did before. -/
theorem inv_complete {k : RspKind} {F : Option ConfigFields} {n : Nat} (env : EnvFit s)
    (legal : responseLegal s.params ⟨k, v, F, if k = .ok then none else some n⟩ = true) : Inv (complete k v F n s) := by
  refine inv_iff.2 ⟨rfl, legal, pollsBounded_of_not_polling (by simp), ?_⟩
  exact env.append (by simpa [eventLegal] using legal)

/-- A busy block on its command's path, with the latches of its state, meets the invariant if its environment does. -/
theorem inv_busy (env : EnvFit s) (latched : latchedInstr s = some i) (path : (busyPath i).contains s.st = true)
    (req : s.reqValid = false) (rsp : s.rspValid = false)
    (fin : s.finL.isSome = (s.st == .mReq || s.st == .mPoll || s.st == .mReady)) (w : s.wL.isSome = (s.st == .setWr))
    (npoll : s.npoll.isSome = (s.st == .mPoll || s.st == .mReady)) (polls : pollsBounded s = true) : Inv s :=
  inv_iff.2 ⟨(latchesFit_busy (busyPath_ne_idle path) latched).2 ⟨req, rsp, path, fin, w, npoll⟩,
    by simp [responseFits, rsp], polls, env⟩

/-! ### Every next state meets the invariant -/

theorem blockReset_inv (u : Bool) (h : Inv s) : Inv (blockReset u s) := by
  obtain ⟨-, -, -, env⟩ := inv_iff.1 h
  have legal : (cutEvents u s).all (eventLegal s.params) = true := by
    unfold cutEvents
    split
    · next call => simp [eventLegal, callLegal_namedCall call]
    · rfl
  exact inv_waiting (s := blockReset u s) (env.append legal) rfl ⟨rfl, rfl, rfl, rfl, rfl⟩ rfl

theorem refuse_inv (reason : RefuseReason) (h : Inv s) (idle : s.st = .idle) : Inv (refuse reason s) := by
  obtain ⟨latches, -, -, env⟩ := inv_iff.1 h
  exact inv_waiting (s := refuse reason s) env idle ((latchesFit_idle idle).1 latches) rfl

theorem callerMove_inv (h : Inv s) (idle : s.st = .idle) : Inv (callerMove s) := by
  obtain ⟨latches, response, polls, env⟩ := inv_iff.1 h
  obtain ⟨valid, cmd, fields, queue, eq⟩ := callerMove_eq s
  rw [eq]
  exact inv_iff.2 ⟨by simpa [latchesFit, idle] using latches, response, polls, env⟩

/-- A command's move keeps the invariant, if the command is the one its word decodes to and, in a busy state, the latched
one. -/
theorem Move.inv (m : Move i s t) (h : Inv s) (decodes : decodeParts (opcode i) i.argument = .command i)
    (latched : s.st ≠ .idle → latchedInstr s = some i) : Inv t := by
  obtain ⟨latches, -, -, env⟩ := inv_iff.1 h
  cases m with
  | accepted first idle wf path other =>
    obtain ⟨onPath, -, notWr, notPoll, notReady⟩ := busyPath_head path
    obtain ⟨-, -, fin, w, npoll⟩ := (latchesFit_idle idle).1 latches
    exact inv_busy (s := accept i first s) env (latchedInstr_accept first decodes) onPath rfl rfl
      (by simp [fin, other, notPoll, notReady]) (by simp [w, notWr]) (by simp [npoll, notPoll, notReady])
      (pollsBounded_of_not_polling notPoll)
  | acceptedMeasure g idle is =>
    subst is
    obtain ⟨-, -, -, w, npoll⟩ := (latchesFit_idle idle).1 latches
    exact inv_busy (s := measureAccept g s) env (latchedInstr_accept (s := s) .mReq decodes) rfl rfl rfl rfl
      (by simp [measureAccept, w]) (by simp [measureAccept, npoll]) (pollsBounded_of_not_polling nofun)
  | pure v F => exact inv_complete (s := takeRequest s) env rfl
  | refused r idle => exact refuse_inv r h idle
  | failed c a rest path call ans bad =>
    exact inv_complete (env.answered (callLegal_latched call) ans)
      (by simp [responseLegal, bad, env.status_lt ans])
  | done c a rest v path call ans => exact inv_complete (env.answered (callLegal_latched call) ans) rfl
  | toWrite f arg a rest is st ans =>
    have busy : s.st ≠ .idle := by simp [st]
    obtain ⟨req, rsp, -, fin, -, npoll⟩ := (latchesFit_busy busy (latched busy)).1 latches
    exact inv_busy (env.answered callLegal_readCall ans) (latched busy) (by rw [is, busyPath_setInstr]; rfl) req rsp
      (fin.trans (by rw [st]; rfl)) rfl (npoll.trans (by rw [st]; rfl)) (pollsBounded_of_not_polling nofun)
  | started g F a rest is st hfin ans =>
    have busy : s.st ≠ .idle := by simp [st]
    obtain ⟨req, rsp, -, fin, w, -⟩ := (latchesFit_busy busy (latched busy)).1 latches
    exact inv_busy (env.answered callLegal_writeConfig ans) (latched busy) (by rw [is]; rfl) req rsp
      (by simp [hfin]) (w.trans (by rw [st]; rfl)) rfl (pollsBounded_of_below rfl (pollLimitReached_zero env.2.1))
  | ready g n a rest is st polls ans =>
    have busy : s.st ≠ .idle := by simp [st]
    obtain ⟨req, rsp, -, fin, w, -⟩ := (latchesFit_busy busy (latched busy)).1 latches
    exact inv_busy (env.answered callLegal_readCall ans) (latched busy) (by rw [is]; rfl) req rsp
      (fin.trans (by rw [st]; rfl)) (w.trans (by rw [st]; rfl)) (by simp [polls]) (pollsBounded_of_not_polling nofun)
  | polled g n a rest is st polls ans good conv below =>
    have busy : s.st ≠ .idle := by simp [st]
    obtain ⟨req, rsp, path, fin, w, -⟩ := (latchesFit_busy busy (latched busy)).1 latches
    exact inv_busy (env.answered callLegal_readCall ans) (latched busy) path req rsp fin w
      (by simp [st]) (pollsBounded_of_below rfl below)
  | timedOut g n a rest is st polls ans good conv reached =>
    exact inv_complete (env.answered callLegal_readCall ans)
      (by simpa [responseLegal] using isSome_of_pollLimitReached reached)

end

/-- Settles O47: each case of a step keeps the invariant; a transaction runs the latched command, and an accept step the
command of the presented word. -/
theorem everyStepKeepsTheInvariant : Obligations.EveryStepKeepsTheInvariant := by
  intro s t h hstep
  cases step_move hstep with
  | reset u => exact blockReset_inv u h
  | transaction i pin busy latched m =>
    obtain ⟨-, -, decodes⟩ := latchedInstr_some latched
    exact m.inv h decodes fun _ => latched
  | accept i pin idle valid decodes m => exact m.inv h (decode_command decodes).1 (absurd idle)
  | refuse reason pin idle => exact refuse_inv reason h idle
  | caller pin idle => exact callerMove_inv h idle

/-- Settles O46: reset leaves a waiting block with an empty trace and no poll limit. -/
theorem invariantHoldsAtReset : Obligations.InvariantHoldsAtReset :=
  inv_waiting ⟨rfl, rfl, rfl⟩ rfl ⟨rfl, rfl, rfl, rfl, rfl⟩ rfl

section

variable {α : Type} {s : State} {reg : Option α}

/-! ### The caller's reads of the response registers (10_state.md R24) -/

theorem readResponse_no_response (h : s.rspValid = false) : readResponse s reg = .error .responseNoValue := by
  simp [readResponse, h]

theorem readResponse_value {v : α} (h : s.rspValid = true) (hv : reg = some v) : readResponse s reg = .ok v := by
  simp [readResponse, h, hv]

theorem readResponse_not_named (h : s.rspValid = true) (hv : reg = none) :
    readResponse s reg = .error .responseNoValue := by
  simp [readResponse, h, hv]

end

/-- Settles O52: every read is a read of a response register, with a value exactly where the response names one. -/
theorem callerReadsOnlyNamedResponses : Obligations.CallerReadsOnlyNamedResponses := by
  intro s
  refine ⟨fun h => ?_, fun es r rest => ?_, rfl, rfl, rfl⟩
  · exact ⟨readResponse_no_response h, readResponse_no_response h, readResponse_no_response h,
      readResponse_no_response h⟩
  · exact ⟨rfl, rfl, readResponse_not_named rfl, fun _ => readResponse_value rfl, readResponse_not_named rfl,
      fun _ => readResponse_value rfl⟩

/-- Settles O44: no register of the block has a value, and no response is present to be read. -/
theorem resetLeavesTheSpecValues : Obligations.ResetLeavesTheSpecValues :=
  ⟨rfl, rfl, rfl, rfl, rfl, rfl, rfl, rfl, rfl, rfl, rfl, rfl, readResponse_no_response rfl⟩

/-- Settles O53, by evaluating the encoder and the field predicates on the listed fields. -/
theorem deviceResetWordIsTheListedFields : Obligations.DeviceResetWordIsTheListedFields := by
  have word : encodeConfig deviceResetFields = 0x8583 := by decide
  exact ⟨by rw [word]; rfl, word, rfl, rfl, rfl, rfl, rfl⟩

end Sys2Proof.Machine

namespace Sys2Proof.Machine

open Sys2Proof

/-! ### The byte order of a register value (20_memory.md R53) -/

theorem wordOfBytes_toNat (b0 b1 : Byte) : (wordOfBytes b0 b1).toNat = b0.toNat * 256 + b1.toNat := by
  rw [wordOfBytes, BitVec.toNat_append, ← Nat.shiftLeft_add_eq_or_of_lt b1.isLt, Nat.shiftLeft_eq]

theorem firstByte_toNat (v : Word) : (firstByte v).toNat = v.toNat / 256 := by
  have := v.isLt
  simp only [firstByte, BitVec.extractLsb'_toNat, Nat.shiftRight_eq_div_pow]
  omega

theorem secondByte_toNat (v : Word) : (secondByte v).toNat = v.toNat % 256 := by
  simp [secondByte]

/-- The bytes sent for a word are read back as that word. -/
theorem wordOfBytes_bytes (v : Word) : wordOfBytes (firstByte v) (secondByte v) = v :=
  BitVec.eq_of_toNat_eq (by rw [wordOfBytes_toNat, firstByte_toNat, secondByte_toNat, Nat.div_add_mod'])

/-- Settles O15: both directions are division by 256 with its remainder. -/
theorem registerBytesAreBigEndian : Obligations.RegisterBytesAreBigEndian :=
  ⟨wordOfBytes_toNat, fun v => ⟨firstByte_toNat v, secondByte_toNat v, wordOfBytes_bytes v⟩, by decide⟩

section

variable {i : Instr} {s t : State} {c : Call}

/-! ### The calls a step adds to the trace (20_memory.md R52, R57, R59, R67) -/

/-- A legal call has two bytes and the handle, and is no write of the conversion register. -/
theorem twoBytes_of_callLegal {p : Params} (legal : callLegal p c = true) :
    c.length = 2 ∧ c.handle = p.handle ∧ (c.access ≠ .read → c.reg.id ≠ 0) := by
  simp only [callLegal, Bool.and_eq_true, decide_eq_true_eq] at legal
  obtain ⟨⟨handle, length⟩, access⟩ := legal
  refine ⟨length, handle, fun write conversion => ?_⟩
  cases reg : c.reg with
  | conversion =>
    cases kind : c.access with
    | read => exact write kind
    | write b0 b1 => simp [kind, reg, Reg.writable] at access
  | config | lowThreshold | highThreshold => simp [reg, Reg.id] at conversion

/-- The trace goes on from `s` to `t` with events whose calls are legal. -/
def AddsLegalCalls (s t : State) : Prop :=
  ∃ es, t.trace = s.trace ++ es ∧ ∀ c ∈ callsOf es, callLegal s.params c = true

theorem addsLegalCalls_of_trace_eq (h : t.trace = s.trace) : AddsLegalCalls s t :=
  ⟨[], by rw [h, List.append_nil], nofun⟩

@[simp] theorem callsOf_callEvent (a : Answer) (more : List Event) :
    callsOf (callEvent c a :: more) = c :: callsOf more := by
  obtain ⟨bytes, event⟩ := callEvent_eq_call c a
  rw [event]
  rfl

/-- A command adds no call in `IDLE`, and in a busy state the one that `st` names. -/
theorem Move.addsLegalCalls (m : Move i s t) : AddsLegalCalls s t := by
  by_cases idle : s.st = .idle
  · obtain ⟨es, trace⟩ := m.keepsEnvironment.trace
    have noCalls : callsOf es = [] := by
      have := m.callsOf_idle idle
      rwa [← trace, callsOf_append, List.append_right_eq_self] at this
    exact ⟨es, trace.symm, by simp [noCalls]⟩
  · obtain ⟨c, a, more, call, trace, noCalls⟩ := m.trace_busy idle
    exact ⟨_, trace, by simp [noCalls, callLegal_latched call]⟩

/-- A reset cuts at most the call that `st` names (70_reset_and_hazards.md R241). -/
theorem blockReset_addsLegalCalls (u : Bool) : AddsLegalCalls s (blockReset u s) := by
  refine ⟨cutEvents u s, rfl, fun c mem => callLegal_namedCall ?_⟩
  unfold cutEvents at mem
  split at mem
  · next call =>
    rw [List.mem_singleton.1 mem]
    exact call
  · cases mem

theorem callerMove_trace : (callerMove s).trace = s.trace := by
  obtain ⟨valid, cmd, fields, queue, eq⟩ := callerMove_eq s
  rw [eq]

theorem StepMove.addsLegalCalls (m : StepMove s t) : AddsLegalCalls s t := by
  cases m with
  | reset u => exact blockReset_addsLegalCalls u
  | transaction i _ _ _ move | accept i _ _ _ _ move => exact move.addsLegalCalls
  | refuse reason => exact addsLegalCalls_of_trace_eq (refuse_trace s reason)
  | caller => exact addsLegalCalls_of_trace_eq callerMove_trace

end

/-- Settles O48: every call a step adds, answered or cut, is the legal one that `st` names. -/
theorem everyCallIsTwoBytesAndNeverWritesTheResult : Obligations.EveryCallIsTwoBytesAndNeverWritesTheResult := by
  intro s t h
  obtain ⟨es, trace, legal⟩ := (step_move h).addsLegalCalls
  exact ⟨es, trace, fun c mem => twoBytes_of_callLegal (legal c mem)⟩

section

variable {i : Instr} {s : State} {c : Call} {a : Answer} {rest : Answers}

/-! ### Transactions, whatever the transport answers (40_sequencer.md R106) -/

/-- What command `i` does in the busy state `s`, for all sequences of answers to come: it stops, it reads a register,
which no writing state does, or it writes one. -/
inductive Transaction (i : Instr) (s : State) : Prop where
  | stop (e : Fault) (is : ∀ all, exec i { s with answers := all } = .fault e)
  | read (r : Reg) (k : Word → State → Result) (reading : ¬ (s.st = .setWr ∨ s.st = .mReq ∨ s.st = .thWr))
      (is : ∀ all, exec i { s with answers := all } = memRead r k { s with answers := all })
  | write (r : Reg) (v : Word) (j : State → Result)
      (is : ∀ all, exec i { s with answers := all } = memWrite r v j { s with answers := all })

theorem getField_transaction (f : Field) (arg : Word) (busy : s.st ≠ .idle) : Transaction (getInstr f arg) s := by
  cases st : s.st with
  | idle => exact absurd st busy
  | getRd => exact .read _ _ (by simp [st]) fun all => by simp only [exec_getInstr, getField, st]; rfl
  | _ => exact .stop .strayState fun all => by simp only [exec_getInstr, getField, st]

theorem setField_transaction (f : Field) (arg : Word) (busy : s.st ≠ .idle) : Transaction (setInstr f arg) s := by
  cases st : s.st with
  | idle => exact absurd st busy
  | setRd => exact .read _ _ (by simp [st]) fun all => by simp only [exec_setInstr, setField, st]; rfl
  | setWr =>
    cases w : s.wL with
    | none => exact .stop .latchNoValue fun all => by simp only [exec_setInstr, setField, st, w]
    | some w => exact .write _ _ _ fun all => by simp only [exec_setInstr, setField, st, w]; rfl
  | _ => exact .stop .strayState fun all => by simp only [exec_setInstr, setField, st]

theorem measure_transaction (g : Word) (busy : s.st ≠ .idle) : Transaction (.measure g) s := by
  cases st : s.st with
  | idle => exact absurd st busy
  | mReq =>
    cases fin : s.finL with
    | none => exact .stop .latchNoValue fun all => by simp only [exec, execMeasure, st, fin]
    | some F => exact .write _ _ _ fun all => by simp only [exec, execMeasure, st, fin]; rfl
  | mPoll =>
    cases polls : s.npoll with
    | none => exact .stop .latchNoValue fun all => by simp only [exec, execMeasure, st, polls]
    | some n => exact .read _ _ (by simp [st]) fun all => by simp only [exec, execMeasure, st, polls]; rfl
  | mReady => exact .read _ _ (by simp [st]) fun all => by simp only [exec, execMeasure, st]; rfl
  | _ => exact .stop .strayState fun all => by simp only [exec, execMeasure, st]

theorem getThreshold_transaction (is : exec i = getThreshold i) (busy : s.st ≠ .idle) : Transaction i s := by
  cases st : s.st with
  | idle => exact absurd st busy
  | thRd => exact .read _ _ (by simp [st]) fun all => by simp only [is, getThreshold, st]; rfl
  | _ => exact .stop .strayState fun all => by simp only [is, getThreshold, st]

theorem setThreshold_transaction (is : exec i = setThreshold i) (busy : s.st ≠ .idle) : Transaction i s := by
  cases st : s.st with
  | idle => exact absurd st busy
  | thWr => exact .write _ _ _ fun all => by simp only [is, setThreshold, st]; rfl
  | _ => exact .stop .strayState fun all => by simp only [is, setThreshold, st]

/-- A pure command has no busy state (41_codec.md R127 to R131). -/
theorem pureComplete_busy (v : Word) (F : Option ConfigFields) (busy : s.st ≠ .idle) :
    pureComplete v F s = .fault .strayState := by
  unfold pureComplete
  split
  · next idle => exact absurd idle busy
  · rfl

theorem execThEncode_busy (arg : Word) (busy : s.st ≠ .idle) : execThEncode arg s = .fault .strayState := by
  unfold execThEncode
  split
  · next idle => exact absurd idle busy
  · rfl

theorem exec_transaction (i : Instr) (busy : s.st ≠ .idle) : Transaction i s := by
  obtain ⟨f, g, rfl⟩ | ⟨f, g, rfl⟩ | ⟨g, rfl⟩ | ⟨g, rfl | rfl⟩ | ⟨g, rfl | rfl⟩ |
    ⟨g, rfl | rfl | rfl | rfl | rfl⟩ := instr_families i
  · exact getField_transaction f g busy
  · exact setField_transaction f g busy
  · exact measure_transaction g busy
  · exact getThreshold_transaction rfl busy
  · exact getThreshold_transaction rfl busy
  · exact setThreshold_transaction rfl busy
  · exact setThreshold_transaction rfl busy
  · exact .stop _ fun all => pureComplete_busy _ _ busy
  · exact .stop _ fun all => pureComplete_busy _ _ busy
  · exact .stop _ fun all => execThEncode_busy _ busy
  · exact .stop _ fun all => pureComplete_busy _ _ busy
  · exact .stop _ fun all => pureComplete_busy _ _ busy

/-! ### Answers whose bytes are ignored (20_memory.md R50, R54, R67) -/

/-- `s` with the bytes `b0, b1` in the answer `a` to its next call, and the answers `rest` after it. -/
def withBytes (b0 b1 : Byte) (a : Answer) (rest : Answers) (s : State) : State :=
  { s with answers := .next { a with b0 := b0, b1 := b1 } rest }

/-- After a call the bytes of its answer stand in the event of the call only. -/
theorem answered_withBytes (b0 b1 : Byte) (event : callEvent c { a with b0 := b0, b1 := b1 } = callEvent c a) :
    answered c { a with b0 := b0, b1 := b1 } rest (withBytes b0 b1 a rest s) = answered c a rest s := by
  rw [answered, answered, event]
  rfl

theorem withBytes_draw (b0 b1 : Byte) :
    (withBytes b0 b1 a rest s).draw = some ({ a with b0 := b0, b1 := b1 }, rest) := rfl

/-- A failed read ignores the bytes of its answer. -/
theorem memRead_withBytes {r : Reg} {k : Word → State → Result} (b0 b1 : Byte) (ans : s.draw = some (a, rest))
    (bad : a.status ≠ 0) : memRead r k (withBytes b0 b1 a rest s) = memRead r k s := by
  have event : callEvent (readCall r s) { a with b0 := b0, b1 := b1 } = callEvent (readCall r s) a := by
    rw [callEvent_read_fails bad, callEvent_read_fails (a := { a with b0 := b0, b1 := b1 }) bad]
  have same := answered_withBytes (rest := rest) (s := s) b0 b1 event
  rw [memRead_fails ans bad, memRead_fails (withBytes_draw b0 b1) bad]
  exact congrArg (Host.Outcome.next ∘ abort a.status) same

/-- A write ignores the bytes of its answer. -/
theorem memWrite_withBytes {r : Reg} {v : Word} {j : State → Result} (b0 b1 : Byte)
    (ans : s.draw = some (a, rest)) : memWrite r v j (withBytes b0 b1 a rest s) = memWrite r v j s := by
  have same := answered_withBytes (c := writeCall r v s) (a := a) (rest := rest) (s := s) b0 b1 rfl
  by_cases good : a.status = 0
  · rw [memWrite_ok ans good, memWrite_ok (withBytes_draw b0 b1) good]
    exact congrArg j same
  · rw [memWrite_fails ans good, memWrite_fails (withBytes_draw b0 b1) good]
    exact congrArg (Host.Outcome.next ∘ abort a.status) same

/-- A command ignores the bytes of a failing answer, and in a writing state those of every answer. -/
theorem exec_withBytes (b0 b1 : Byte) (busy : s.st ≠ .idle) (ans : s.draw = some (a, rest))
    (ignored : a.status ≠ 0 ∨ s.st = .setWr ∨ s.st = .mReq ∨ s.st = .thWr) :
    exec i (withBytes b0 b1 a rest s) = exec i s := by
  cases exec_transaction i busy with
  | stop e is => exact (is _).trans (is s.answers).symm
  | read r k reading is =>
    calc exec i (withBytes b0 b1 a rest s)
      _ = memRead r k (withBytes b0 b1 a rest s) := is _
      _ = memRead r k s := memRead_withBytes b0 b1 ans (ignored.resolve_right reading)
      _ = exec i s := (is s.answers).symm
  | write r v j is =>
    calc exec i (withBytes b0 b1 a rest s)
      _ = memWrite r v j (withBytes b0 b1 a rest s) := is _
      _ = memWrite r v j s := memWrite_withBytes b0 b1 ans
      _ = exec i s := (is s.answers).symm

theorem step_busy (released : s.resetPin = .released) (busy : s.st ≠ .idle) : step s = transactionStep s := by
  simp [step, released, State.busy, busy]

end

/-- Settles O51: the step runs the latched command, if there is one, and the latches do not change with the answers. -/
theorem bytesOfAFailedReadAreIgnored : Obligations.BytesOfAFailedReadAreIgnored := by
  intro s a b0 b1 rest released busy ans ignored
  change step (withBytes b0 b1 a rest s) = step s
  rw [step_busy released busy, step_busy (s := withBytes b0 b1 a rest s) released busy]
  have latches : latchedInstr (withBytes b0 b1 a rest s) = latchedInstr s := rfl
  unfold transactionStep
  rw [latches]
  cases latchedInstr s with
  | none => rfl
  | some i => exact exec_withBytes b0 b1 busy ans ignored

end Sys2Proof.Machine

namespace Sys2Proof

/-! ### Decoding and encoding are inverse on admitted commands (30_encoding.md R81, R83, R85, R88) -/

/-- The opcode and the argument of a command decode to no other command, and to this one exactly when its format admits
the argument. -/
theorem decodeParts_opcode_argument {i k : Instr} :
    decodeParts (opcode i) i.argument = .command k ↔ i.wellFormed = true ∧ i = k := by
  cases i with
  | setStatus | setChannel | setGain | setMode | setDataRate | setCompMode | setCompPolarity | setCompLatch
  | setCompQueue => exact decodeSet_command
  | setLoThresh | setHiThresh | thEncode => exact decodeSigned_command
  | _ => exact ⟨fun h => by cases h; exact ⟨rfl, rfl⟩, fun ⟨_, h⟩ => by rw [← h]; rfl⟩

/-- Exactly the words of admitted commands decode to a command. -/
theorem decode_eq_command {w : Cmd} {i : Instr} : decode w = .command i ↔ encode i = w ∧ i.wellFormed = true := by
  constructor
  · intro h
    obtain ⟨op, arg, wf⟩ := decodeParts_command h
    exact ⟨by rw [encode, op, arg, cmd_halves], wf⟩
  · rintro ⟨rfl, wf⟩
    rw [encode, decode_append]
    exact decodeParts_opcode_argument.2 ⟨wf, rfl⟩

/-- Settles O2: the direction of `decode_eq_command` from the command. -/
theorem decodeOfEncodeIsTheCommand : Obligations.DecodeOfEncodeIsTheCommand :=
  fun _ wf => decode_eq_command.2 ⟨rfl, wf⟩

/-- Settles O3: the direction of `decode_eq_command` from the word. -/
theorem encodeOfDecodeIsTheWord : Obligations.EncodeOfDecodeIsTheWord :=
  fun _ _ => decode_eq_command.1

/-- Settles O1: each word is evaluated. -/
theorem specWordsDecodeAsWritten : Obligations.SpecWordsDecodeAsWritten := by
  unfold Obligations.SpecWordsDecodeAsWritten
  decide

/-! ### Reserved opcodes (30_encoding.md R86) -/

theorem decodeSet_ne_reservedOpcode (f : Field) (arg : Word) : decodeSet f arg ≠ .refuse .reservedOpcode := by
  unfold decodeSet
  split <;> nofun

theorem decodeSigned_ne_reservedOpcode (mk : Word → Instr) (arg : Word) :
    decodeSigned mk arg ≠ .refuse .reservedOpcode := by
  unfold decodeSigned
  split <;> nofun

/-- The reserved opcodes are the numbers between those of the table. -/
theorem decodeParts_reservedOpcode {op : BitVec 8} {arg : Word} :
    decodeParts op arg = .refuse .reservedOpcode ↔
      op.toNat ≤ 0x0F ∨ (0x19 ≤ op.toNat ∧ op.toNat ≤ 0x1F) ∨ (0x29 ≤ op.toNat ∧ op.toNat ≤ 0x2F) ∨
        (0x31 ≤ op.toNat ∧ op.toNat ≤ 0x3F) ∨ (0x44 ≤ op.toNat ∧ op.toNat ≤ 0x4F) ∨ 0x55 ≤ op.toNat := by
  unfold decodeParts
  split
  case h_10 | h_11 | h_12 | h_13 | h_14 | h_15 | h_16 | h_17 | h_18 =>
    exact iff_of_false (decodeSet_ne_reservedOpcode _ _) (by omega)
  case h_21 | h_23 | h_26 => exact iff_of_false (decodeSigned_ne_reservedOpcode _ _) (by omega)
  case h_29 =>
    simp only [imp_false, true_iff] at *
    omega
  all_goals exact iff_of_false nofun (by omega)

end Sys2Proof

namespace Sys2Proof.Machine

open Sys2Proof

/-- A presented command word is accepted in the very next step (40_sequencer.md R101, R102). -/
theorem step_presents {s : State} {op : BitVec 8} {arg : Word} (h : presents s op arg) : step s = acceptStep s := by
  obtain ⟨released, idle, valid, -⟩ := h
  simp [step, released, State.busy, idle, valid]

/-- Settles O4: the opcodes between those of the table, and the accept step of a refused word. -/
theorem reservedOpcodesAreRefused : Obligations.ReservedOpcodesAreRefused := by
  intro op arg
  refine ⟨by rw [decode_append]; exact decodeParts_reservedOpcode, fun s presented reserved => ?_⟩
  obtain ⟨-, -, -, word⟩ := id presented
  rw [step_presents presented, acceptStep_refuse (word ▸ reserved)]
  rfl

section

variable {i j : Instr} {s : State}

/-! ### The ignored argument of formats N and F (30_encoding.md R82) -/

/-- An admitted command is determined by its opcode and its argument. -/
theorem eq_of_opcode_eq_of_argument_eq (op : opcode i = opcode j) (arg : i.argument = j.argument)
    (wf : i.wellFormed = true) : i = j := by
  have decodes := decodeParts_opcode_argument.2 ⟨wf, rfl⟩
  rw [op, arg] at decodes
  exact (decodeParts_opcode_argument.1 decodes).2.symm

/-- A command with the opcode of a command without admission check is that command with another argument. -/
theorem eq_of_opcode_eq {mk : Word → Instr} {a : Word} (op : opcode (mk a) = opcode j)
    (sameOp : ∀ b, opcode (mk b) = opcode (mk a) := by exact fun _ => rfl)
    (arg : ∀ b, (mk b).argument = b := by exact fun _ => rfl)
    (wf : ∀ b, (mk b).wellFormed = true := by exact fun _ => rfl) : j = mk j.argument :=
  (eq_of_opcode_eq_of_argument_eq ((sameOp _).trans op) (arg _) (wf _)).symm

theorem opcode_getInstr_congr (f : Field) (a b : Word) : opcode (getInstr f a) = opcode (getInstr f b) :=
  BitVec.eq_of_toNat_eq ((opcode_getInstr f a).trans (opcode_getInstr f b).symm)

/-- `s` with no value in the latch `arg_l`. -/
def clearArgL (s : State) : State := { s with argL := none }

/-- The commands `i` and `j` step alike from `s` up to the value of `arg_l`. -/
def AlikeUpToArgL (i j : Instr) (s : State) : Prop := nextMap clearArgL (exec i s) = nextMap clearArgL (exec j s)

/-- The accept steps of two commands of one opcode differ in `arg_l` only. -/
theorem accept_clearArgL (op : opcode i = opcode j) (first : Seq) :
    clearArgL (accept i first s) = clearArgL (accept j first s) := by
  simp [clearArgL, accept, op]

theorem getField_alike (f : Field) (a b : Word) (s : State) : AlikeUpToArgL (getInstr f a) (getInstr f b) s := by
  unfold AlikeUpToArgL
  cases st : s.st with
  | idle =>
    simp only [exec_getInstr, getField, st]
    exact congrArg Host.Outcome.next (accept_clearArgL (opcode_getInstr_congr f a b) .getRd)
  | _ => simp only [exec_getInstr, getField, st]

theorem getThreshold_alike (i_is : exec i = getThreshold i) (j_is : exec j = getThreshold j)
    (op : opcode i = opcode j) : AlikeUpToArgL i j s := by
  unfold AlikeUpToArgL
  cases st : s.st with
  | idle =>
    simp only [i_is, j_is, getThreshold, st]
    exact congrArg Host.Outcome.next (accept_clearArgL op .thRd)
  | _ => simp only [i_is, j_is, getThreshold, st, op]

theorem measure_alike (a b : Word) (s : State) : AlikeUpToArgL (.measure a) (.measure b) s := by
  unfold AlikeUpToArgL
  cases st : s.st with
  | idle => simp only [exec, execMeasure, st]; rfl
  | _ => simp only [exec, execMeasure, st]

end

/-- Settles O7: a command of format N or F reads its argument in the accept step only, where it goes to `arg_l`. -/
theorem ignoredArgumentChangesOnlyItsLatch : Obligations.IgnoredArgumentChangesOnlyItsLatch := by
  intro i j s op ignoring
  change AlikeUpToArgL i j s
  obtain ⟨f, a, rfl⟩ | ⟨f, a, rfl⟩ | ⟨a, rfl⟩ | ⟨a, rfl | rfl⟩ | ⟨a, rfl | rfl⟩ |
    ⟨a, rfl | rfl | rfl | rfl | rfl⟩ := instr_families i
  · rw [eq_of_opcode_eq op (opcode_getInstr_congr f · a) (argument_getInstr f) (wellFormed_getInstr f)]
    exact getField_alike f a _ s
  · simp at ignoring
  · rw [eq_of_opcode_eq op]
    exact measure_alike a _ s
  · rw [eq_of_opcode_eq op]
    exact getThreshold_alike rfl rfl rfl
  · rw [eq_of_opcode_eq op]
    exact getThreshold_alike rfl rfl rfl
  · simp [Instr.format] at ignoring
  · simp [Instr.format] at ignoring
  · rw [eq_of_opcode_eq op]
    rfl
  all_goals simp [Instr.format] at ignoring

end Sys2Proof.Machine

namespace Sys2Proof.Machine

open Sys2Proof

/-! ### The operands a line assembles (30_encoding.md R83, R90) -/

/-- Format V admits the values of the field, `arg < 2 ^ w` (30_encoding.md R83). -/
theorem argFits_iff {f : Field} {arg : Word} : argFits f arg = true ↔ arg.toNat < 2 ^ f.width := by
  simp [argFits, BitVec.toNat_eq, Nat.shiftRight_eq_div_pow]

/-- Format S admits −2048..2047 (30_encoding.md R83). -/
theorem thresholdFits_iff {arg : Word} : thresholdFits arg = true ↔ -2048 ≤ arg.toInt ∧ arg.toInt ≤ 2047 := by
  have := arg.isLt
  simp only [thresholdFits, BitVec.toNat_eq, BitVec.extractLsb'_toNat, Nat.shiftRight_eq_div_pow, Bool.or_eq_true,
    decide_eq_true_eq, BitVec.toInt_eq_toNat_cond, BitVec.toNat_ofNat]
  omega

/-- The operand of an admitted argument of format S is the argument's value (30_encoding.md R82). -/
theorem thresholdOperand_toInt {arg : Word} (fits : thresholdFits arg = true) :
    (thresholdOperand arg).toInt = arg.toInt := by
  have := arg.isLt
  rw [thresholdFits_iff] at fits
  simp only [thresholdOperand, BitVec.toInt_eq_toNat_cond, BitVec.extractLsb'_toNat, Nat.shiftRight_zero] at *
  omega

theorem thresholdEncode_toInt (t : Code) : (thresholdEncode t).toInt = t.toInt * 16 := by
  rw [thresholdEncode, BitVec.toInt_append_zero, Int.mul_comm]
  rfl

/-- A field value assembles to an argument that its field admits. -/
theorem argFits_asmValue {f : Field} {v : Nat} {a : Word} (h : asmValue f v = some a) : argFits f a = true := by
  obtain ⟨fits, ⟨⟩⟩ := Option.ite_none_right_eq_some.1 h
  rw [argFits_iff, BitVec.toNat_ofNat]
  exact (Nat.mod_le _ _).trans_lt fits

/-- A threshold assembles to an argument of its value. -/
theorem asmSigned_toInt {v : Int} {a : Word} (h : asmSigned v = some a) :
    (-2048 ≤ v ∧ v ≤ 2047) ∧ a.toInt = v := by
  obtain ⟨range, ⟨⟩⟩ := Option.ite_none_right_eq_some.1 h
  exact ⟨range, BitVec.toInt_ofInt_eq_self (by decide) (by omega) (by omega)⟩

theorem thresholdFits_asmSigned {v : Int} {a : Word} (h : asmSigned v = some a) : thresholdFits a = true := by
  obtain ⟨range, value⟩ := asmSigned_toInt h
  rwa [thresholdFits_iff, value]

/-! ### Assembled commands -/

theorem encode_getInstr (f : Field) (a : Word) : encode (getInstr f a) = BitVec.ofNat 8 (0x10 + f.index) ++ a := by
  cases f <;> rfl

theorem encode_setInstr (f : Field) (a : Word) : encode (setInstr f a) = BitVec.ofNat 8 (0x20 + f.index) ++ a := by
  cases f <;> rfl

/-- Settles O54: the words of the GET and SET families, and the operand that is there exactly when it fits. -/
theorem assembleGivesTheOpcodes : Obligations.AssembleGivesTheOpcodes := by
  intro port f v t
  refine ⟨by rw [assemble, encode_getInstr]; rfl, ?_, Option.map_if, Option.map_if, Option.map_if⟩
  simp only [assemble, encode_setInstr]
  exact Option.map_if

/-- Every command of a line is the word of a command that its format admits. -/
theorem assemble_admitted {port : ConfigFields} {line : AsmLine} {cmds : List Request} {r : Request}
    (h : assemble port line = some cmds) (mem : r ∈ cmds) : ∃ i, encode i = r.cmd ∧ i.wellFormed = true := by
  cases line with
  | get f =>
    cases h
    cases List.mem_singleton.1 mem
    exact ⟨_, rfl, wellFormed_getInstr f 0⟩
  | set f v =>
    obtain ⟨a, value, rfl⟩ := Option.map_eq_some_iff.1 h
    cases List.mem_singleton.1 mem
    exact ⟨_, rfl, (wellFormed_setInstr f a).trans (argFits_asmValue value)⟩
  | setThLo v | setThHi v | thEncode v =>
    obtain ⟨a, value, rfl⟩ := Option.map_eq_some_iff.1 h
    cases List.mem_singleton.1 mem
    exact ⟨_, rfl, thresholdFits_asmSigned value⟩
  | setTh lo hi =>
    obtain ⟨a, low, h⟩ := Option.bind_eq_some_iff.1 h
    obtain ⟨b, high, rfl⟩ := Option.map_eq_some_iff.1 h
    obtain rfl | rfl := List.mem_pair.1 mem
    · exact ⟨_, rfl, thresholdFits_asmSigned low⟩
    · exact ⟨_, rfl, thresholdFits_asmSigned high⟩
  | _ =>
    cases h
    cases List.mem_singleton.1 mem
    exact ⟨_, rfl, rfl⟩

/-- Settles O55: the words of admitted commands decode to them. -/
theorem assembledCommandsAreAdmitted : Obligations.AssembledCommandsAreAdmitted := by
  intro port line cmds h r mem
  obtain ⟨i, word, wf⟩ := assemble_admitted h mem
  exact ⟨i, decode_eq_command.2 ⟨word, wf⟩⟩

/-- Settles O56: each line is evaluated. -/
theorem assemblerTextOfTheExamples : Obligations.AssemblerTextOfTheExamples :=
  fun _ => ⟨rfl, rfl, rfl, rfl, rfl, rfl, rfl, rfl, rfl, rfl⟩

end Sys2Proof.Machine

namespace Sys2Proof.Machine

open Sys2Proof

/-- The fields of a word encode to that word (41_codec.md R122). -/
theorem encodeConfig_decodeConfig (w : Word) : encodeConfig (decodeConfig w) = w := by
  simp only [encodeConfig, decodeConfig, BitVec.extractLsb'_append_extractLsb'_eq_extractLsb']
  exact BitVec.extractLsb'_eq_self

section

variable {i : Instr} {r : Request} {s t : State} {later : List Request} {a : Answer} {rest : Answers}

/-! ### The caller presents its commands (40_sequencer.md R100, R101, R102) -/

/-- A block that waits in `IDLE` with nothing presented, no reset coming. -/
structure Waiting (s : State) : Prop where
  released : s.resetPin = .released
  idle : s.st = .idle
  nothing : s.reqValid = false

/-- `s` with `r` presented and `later` still to present. -/
def presented (r : Request) (later : List Request) (s : State) : State :=
  { s with reqValid := true, reqCmd := r.cmd, reqFields := r.fields, callerQueue := later }

/-- `s` with `r` presented and taken, and `later` still to present. -/
def taken (r : Request) (later : List Request) (s : State) : State := { presented r later s with reqValid := false }

theorem steps_succ {n : Nat} (h : step s = .next t) : steps (n + 1) s = steps n t := by simp [steps, h]

theorem step_waiting (waiting : Waiting s) (queue : s.callerQueue = r :: later) :
    step s = .next (presented r later s) := by
  obtain ⟨released, idle, nothing⟩ := waiting
  simp [step, State.busy, released, idle, nothing, callerMove_presents s queue, presented]

/-- The accept step of an admitted command runs it. -/
theorem step_presented (waiting : Waiting s) (word : r.cmd = encode i) (wf : i.wellFormed = true) :
    step (presented r later s) = exec i (presented r later s) := by
  obtain ⟨released, idle, -⟩ := waiting
  have presents : presents (presented r later s) (opcode i) i.argument := ⟨released, idle, rfl, word⟩
  rw [step_presents presents, acceptStep_command (decode_eq_command.2 ⟨word.symm, wf⟩)]

/-! ### CFG_ENCODE from the caller's queue -/

theorem pureComplete_idle (v : Word) (F : Option ConfigFields) (idle : s.st = .idle) :
    pureComplete v F s = .next (complete .ok v F 0 (takeRequest s)) := by
  simp [pureComplete, idle]

/-- CFG_ENCODE runs in two steps: it is presented, and completes in its accept step. -/
theorem steps_cfgEncode {g : Word} (waiting : Waiting s) (word : r.cmd = encode (.cfgEncode g))
    (queue : s.callerQueue = r :: later) :
    steps 2 s = .next (responded [] (okResponse (encodeConfig r.fields)) s.answers (taken r later s)) := by
  have completes := (step_presented (later := later) waiting word rfl).trans (pureComplete_idle _ _ waiting.idle)
  rw [steps_succ (step_waiting waiting queue), steps_succ completes, complete_takeRequest]
  rfl

/-! ### A threshold SET from the caller's queue (44_threshold.md R201, R203) -/

/-- The word a threshold SET of argument `arg` writes. -/
def thresholdWord (arg : Word) : Word := thresholdEncode (thresholdOperand arg)

theorem thresholdWord_toInt {arg : Word} (fits : thresholdFits arg = true) :
    (thresholdWord arg).toInt = arg.toInt * 16 := by
  rw [thresholdWord, thresholdEncode_toInt, thresholdOperand_toInt fits]

/-- The event of a threshold SET's successful write. -/
def thresholdWritten (p : Params) (i : Instr) : Event :=
  wrote p (thresholdReg (opcode i)) (firstByte (thresholdWord i.argument)) (secondByte (thresholdWord i.argument)) 0

theorem thresholdWritten_setLoThresh (p : Params) (arg : Word) : thresholdWritten p (.setLoThresh arg) =
    wrote p .lowThreshold (firstByte (thresholdWord arg)) (secondByte (thresholdWord arg)) 0 := by
  have reg : thresholdReg 0x41 = .lowThreshold := by decide
  rw [thresholdWritten, opcode, reg, Instr.argument]

theorem thresholdWritten_setHiThresh (p : Params) (arg : Word) : thresholdWritten p (.setHiThresh arg) =
    wrote p .highThreshold (firstByte (thresholdWord arg)) (secondByte (thresholdWord arg)) 0 := by
  have reg : thresholdReg 0x43 = .highThreshold := by decide
  rw [thresholdWritten, opcode, reg, Instr.argument]

/-- The transaction step of an accepted threshold SET whose write succeeds. -/
theorem step_setThreshold (is : exec i = setThreshold i) (wf : i.wellFormed = true) (released : s.resetPin = .released)
    (ans : s.draw = some (a, rest)) (good : a.status = 0) : step (accept i .thWr s) =
      .next (responded [thresholdWritten s.params i] (okResponse 0) rest { s with reqValid := false }) := by
  have latched := latchedInstr_accept (s := s) .thWr (decodeParts_opcode_argument.2 ⟨wf, rfl⟩)
  have writes : setThreshold i (accept i .thWr s) = memWrite (thresholdReg (opcode i)) (thresholdWord i.argument)
      (fun s => .next (completeOk 0 s)) (accept i .thWr s) := rfl
  calc step (accept i .thWr s)
    _ = setThreshold i (accept i .thWr s) := by
      rw [step_busy (s := accept i .thWr s) released nofun, transactionStep_latched latched, is]
    _ = .next (completeOk 0 (answered (writeCall (thresholdReg (opcode i)) (thresholdWord i.argument) (accept i .thWr s))
          a rest (accept i .thWr s))) := writes.trans (memWrite_ok ans good)
    _ = _ := by
      rw [completeOk_eq, complete_answered, responded_accept, callEvent_wrote, good]
      rfl

/-- A threshold SET whose write succeeds runs in three steps: it is presented, accepted and written. -/
theorem steps_setThreshold (is : exec i = setThreshold i) (wf : i.wellFormed = true)
    (fits : thresholdFits i.argument = true) (waiting : Waiting s) (word : r.cmd = encode i)
    (queue : s.callerQueue = r :: later) (ans : s.draw = some (a, rest)) (good : a.status = 0) :
    steps 3 s = .next (responded [thresholdWritten s.params i] (okResponse 0) rest (taken r later s)) := by
  have accepts : exec i (presented r later s) = .next (accept i .thWr (presented r later s)) := by
    have idle : (presented r later s).st = .idle := waiting.idle
    simp [is, setThreshold, idle, fits]
  have writes := step_setThreshold (s := presented r later s) is wf waiting.released ans good
  rw [steps_succ (step_waiting waiting queue), steps_succ ((step_presented waiting word wf).trans accepts),
    steps_succ writes]
  rfl

end

/-- Settles O57: the block encodes the fields of the word. -/
theorem cfgEncodeWordRespondsWithIt : Obligations.CfgEncodeWordRespondsWithIt := by
  intro word port s cmds later assembled queue released idle nothing
  cases assembled
  have run := steps_cfgEncode ⟨released, idle, nothing⟩ rfl queue
  rw [encodeConfig_decodeConfig] at run
  exact ⟨_, run, rfl, rfl, rfl, rfl⟩

/-- Settles O58: two runs of a threshold SET, the second from the state the first leaves. -/
theorem setThWritesBothThresholds : Obligations.SetThWritesBothThresholds := by
  intro lo hi port s cmds later a b rest _ _ assembled queue released idle nothing gives goodA goodB
  obtain ⟨x, low, assembled⟩ := Option.bind_eq_some_iff.1 assembled
  obtain ⟨y, high, rfl⟩ := Option.map_eq_some_iff.1 assembled
  obtain ⟨more, ansA, _, ansB, rfl⟩ := gives
  have fitsX := thresholdFits_asmSigned low
  have fitsY := thresholdFits_asmSigned high
  have first := steps_setThreshold (i := .setLoThresh x) rfl fitsX fitsX ⟨released, idle, nothing⟩ rfl queue ansA goodA
  have second := steps_setThreshold (i := .setHiThresh y) (r := ⟨encode (.setHiThresh y), port⟩) (later := later)
    (s := responded [thresholdWritten s.params (.setLoThresh x)] (okResponse 0) more
      (taken ⟨encode (.setLoThresh x), port⟩ (⟨encode (.setHiThresh y), port⟩ :: later) s))
    rfl fitsY fitsY ⟨released, rfl, rfl⟩ rfl rfl ansB goodB
  refine ⟨_, thresholdWord x, thresholdWord y, (steps_add first).trans second, ?_, ?_, ?_, rfl, rfl, rfl⟩
  · rw [thresholdWord_toInt fitsX, (asmSigned_toInt low).2]
  · rw [thresholdWord_toInt fitsY, (asmSigned_toInt high).2]
  · rw [← thresholdWritten_setLoThresh, ← thresholdWritten_setHiThresh]
    exact List.append_assoc ..

end Sys2Proof.Machine

namespace Sys2Proof.Machine

open Sys2Proof

section

variable {i : Instr} {s t : State} {r : Reg} {v : Word} {k : Word → State → Result} {j : State → Result}

/-! ### The command a step runs (40_sequencer.md R100, R102, R106) -/

theorem step_accept (released : s.resetPin = .released) (idle : s.st = .idle) (valid : s.reqValid = true)
    (decodes : decode s.reqCmd = .command i) : step s = exec i s := by
  have presents : presents s (cmdOp s.reqCmd) (cmdArg s.reqCmd) := ⟨released, idle, valid, (cmd_halves _).symm⟩
  rw [step_presents presents, acceptStep_command decodes]

theorem step_latched (released : s.resetPin = .released) (busy : s.st ≠ .idle) (latched : latchedInstr s = some i) :
    step s = exec i s := by
  rw [step_busy released busy, transactionStep_latched latched]

theorem latchedInstr_of_decode {op : BitVec 8} {arg : Word} (hop : s.opL = some op) (harg : s.argL = some arg)
    (decodes : decode (op ++ arg) = .command i) : latchedInstr s = some i := by
  rw [decode_append] at decodes
  simp [latchedInstr, hop, harg, decodes]

/-- A busy block whose latches fit holds a command. -/
theorem exists_latchedInstr (fit : latchesFit s = true) (busy : s.st ≠ .idle) : ∃ i, latchedInstr s = some i := by
  cases latched : latchedInstr s with
  | some i => exact ⟨i, rfl⟩
  | none => simp [latchesFit, busy, onPath, latched] at fit

/-- A block that waits with nothing queued stays as it is. -/
theorem step_waits (waiting : Waiting s) (queue : s.callerQueue = []) : step s = .next s := by
  obtain ⟨released, idle, nothing⟩ := waiting
  simp [step, State.busy, released, idle, nothing, callerMove_waits s queue]

/-! ### Progress

A command always answers a next state in `IDLE`, and in a busy state whose latches fit unless the transport is silent
(40_sequencer.md R100, R107). -/

theorem setThreshold_idle (i : Instr) (idle : s.st = .idle) : ∃ t, setThreshold i s = .next t := by
  simp only [setThreshold, idle]
  split <;> exact ⟨_, rfl⟩

/-- In `IDLE` a command is accepted, completed or refused at once. -/
theorem exec_idle (i : Instr) (idle : s.st = .idle) : ∃ t, exec i s = .next t := by
  obtain ⟨f, a, rfl⟩ | ⟨f, a, rfl⟩ | ⟨a, rfl⟩ | ⟨a, rfl | rfl⟩ | ⟨a, rfl | rfl⟩ |
    ⟨a, rfl | rfl | rfl | rfl | rfl⟩ := instr_families i
  · simp [getField, idle]
  · simp only [exec_setInstr, setField, idle]
    split <;> exact ⟨_, rfl⟩
  · simp [exec, execMeasure, idle]
  · simp [exec, execGetLoThresh, getThreshold, idle]
  · simp [exec, execGetHiThresh, getThreshold, idle]
  · exact setThreshold_idle _ idle
  · exact setThreshold_idle _ idle
  · exact ⟨_, pureComplete_idle _ _ idle⟩
  · exact ⟨_, pureComplete_idle _ _ idle⟩
  · simp only [exec, execThEncode, idle]
    split
    · exact ⟨_, pureComplete_idle _ _ idle⟩
    · exact ⟨_, rfl⟩
  · exact ⟨_, pureComplete_idle _ _ idle⟩
  · exact ⟨_, pureComplete_idle _ _ idle⟩

/-- The answer `res` in the busy state `s` is a next state where the transport answers, and else the named fault. -/
def Proceeds (s : State) (res : Result) : Prop :=
  (s.draw ≠ none ∧ ∃ t, res = .next t) ∨ (s.draw = none ∧ res = .fault .transportSilent)

theorem memRead_proceeds (go : ∀ w u, ∃ t, k w u = .next t) : Proceeds s (memRead r k s) := by
  cases ans : s.draw with
  | none => exact .inr ⟨ans, memRead_silent ans⟩
  | some d =>
    refine .inl ⟨by simp [ans], ?_⟩
    by_cases good : d.1.status = 0
    · exact memRead_ok ans good ▸ go _ _
    · exact ⟨_, memRead_fails ans good⟩

theorem memWrite_proceeds (go : ∀ u, ∃ t, j u = .next t) : Proceeds s (memWrite r v j s) := by
  cases ans : s.draw with
  | none => exact .inr ⟨ans, memWrite_silent ans⟩
  | some d =>
    refine .inl ⟨by simp [ans], ?_⟩
    by_cases good : d.1.status = 0
    · exact memWrite_ok ans good ▸ go _
    · exact ⟨_, memWrite_fails ans good⟩

theorem setRead_next (f : Field) (x : BitVec f.width) (cur : Word) (s : State) :
    ∃ t, setRead f x cur s = .next t := by
  unfold setRead
  split <;> exact ⟨_, rfl⟩

theorem measurePolled_next (n : Nat) (cur : Word) (s : State) : ∃ t, measurePolled n cur s = .next t := by
  unfold measurePolled
  split
  · exact ⟨_, rfl⟩
  · split <;> exact ⟨_, rfl⟩

theorem getField_proceeds {f : Field} {arg : Word} (path : (busyPath (getInstr f arg)).contains s.st = true) :
    Proceeds s (getField f arg s) := by
  have st : s.st = .getRd := by simpa [busyPath_getInstr] using path
  simp only [getField, st]
  exact memRead_proceeds fun _ _ => ⟨_, rfl⟩

theorem setField_proceeds {f : Field} {arg : Word} (path : (busyPath (setInstr f arg)).contains s.st = true)
    (w : s.wL.isSome = (s.st == .setWr)) : Proceeds s (setField f arg s) := by
  have st : s.st = .setRd ∨ s.st = .setWr := by simpa [busyPath_setInstr] using path
  obtain st | st := st
  · simp only [setField, st]
    exact memRead_proceeds (setRead_next _ _)
  · obtain ⟨word, hw⟩ := Option.isSome_iff_exists.1 (w.trans (by rw [st]; rfl))
    simp only [setField, st, hw]
    exact memWrite_proceeds fun _ => ⟨_, rfl⟩

theorem execMeasure_proceeds {g : Word} (path : (busyPath (.measure g)).contains s.st = true)
    (fin : s.finL.isSome = (s.st == .mReq || s.st == .mPoll || s.st == .mReady))
    (npoll : s.npoll.isSome = (s.st == .mPoll || s.st == .mReady)) : Proceeds s (execMeasure g s) := by
  have st : s.st = .mReq ∨ s.st = .mPoll ∨ s.st = .mReady := by simpa [busyPath] using path
  obtain st | st | st := st
  · obtain ⟨F, hF⟩ := Option.isSome_iff_exists.1 (fin.trans (by rw [st]; rfl))
    simp only [execMeasure, st, hF]
    exact memWrite_proceeds fun _ => ⟨_, rfl⟩
  · obtain ⟨n, hn⟩ := Option.isSome_iff_exists.1 (npoll.trans (by rw [st]; rfl))
    simp only [execMeasure, st, hn]
    exact memRead_proceeds (measurePolled_next n)
  · simp only [execMeasure, st]
    exact memRead_proceeds fun _ _ => ⟨_, rfl⟩

theorem getThreshold_proceeds (st : s.st = .thRd) : Proceeds s (getThreshold i s) := by
  simp only [getThreshold, st]
  exact memRead_proceeds fun _ _ => ⟨_, rfl⟩

theorem setThreshold_proceeds (st : s.st = .thWr) : Proceeds s (setThreshold i s) := by
  simp only [setThreshold, st]
  exact memWrite_proceeds fun _ => ⟨_, rfl⟩

/-- The latched command has the latches that its busy state reads, and a pure command has no busy state. -/
theorem exec_proceeds (fit : latchesFit s = true) (busy : s.st ≠ .idle) (latched : latchedInstr s = some i) :
    Proceeds s (exec i s) := by
  obtain ⟨-, -, path, fin, w, npoll⟩ := (latchesFit_busy busy latched).1 fit
  obtain ⟨f, a, rfl⟩ | ⟨f, a, rfl⟩ | ⟨a, rfl⟩ | ⟨a, rfl | rfl⟩ | ⟨a, rfl | rfl⟩ |
    ⟨a, rfl | rfl | rfl | rfl | rfl⟩ := instr_families i
  · exact exec_getInstr f a s ▸ getField_proceeds path
  · exact exec_setInstr f a s ▸ setField_proceeds path w
  · exact execMeasure_proceeds path fin npoll
  · exact getThreshold_proceeds (by simpa [busyPath] using path)
  · exact getThreshold_proceeds (by simpa [busyPath] using path)
  · exact setThreshold_proceeds (by simpa [busyPath] using path)
  · exact setThreshold_proceeds (by simpa [busyPath] using path)
  all_goals simp [busyPath] at path

/-- A step of a busy block whose latches fit. -/
theorem step_busy_proceeds (released : s.resetPin = .released) (fit : latchesFit s = true) (busy : s.st ≠ .idle) :
    Proceeds s (step s) := by
  obtain ⟨i, latched⟩ := exists_latchedInstr fit busy
  exact step_latched released busy latched ▸ exec_proceeds fit busy latched

theorem acceptStep_next (idle : s.st = .idle) : ∃ t, acceptStep s = .next t := by
  cases decodes : decode s.reqCmd with
  | command i => exact acceptStep_command decodes ▸ exec_idle i idle
  | refuse reason => exact ⟨_, acceptStep_refuse decodes⟩

/-! ### How a command begins and ends (40_sequencer.md R102 to R104) -/

/-- An admitted command that uses the transport enters its first busy state, and only MEASURE latches `req_fields`. -/
theorem exec_accepts {first : Seq} (idle : s.st = .idle) (wf : i.wellFormed = true)
    (path : (busyPath i).head? = some first) :
    exec i s = .next { accept i first s with finL := if first = .mReq then some s.reqFields else s.finL } := by
  obtain ⟨t, next⟩ := exec_idle i idle
  rw [next]
  cases exec_move next with
  | accepted first' _ _ path' other =>
    cases path.symm.trans path'
    rw [if_neg other]
    rfl
  | acceptedMeasure g _ is =>
    subst is
    cases path
    rfl
  | pure v F _ _ noPath => simp [noPath] at path
  | refused r _ bad => simp [wf] at bad
  | failed _ _ _ busy | done _ _ _ _ busy => exact absurd idle (busyPath_ne_idle busy)
  | toWrite _ _ _ _ _ st | started _ _ _ _ _ st | ready _ _ _ _ _ st | polled _ _ _ _ _ st | timedOut _ _ _ _ _ st =>
    simp [st] at idle

/-- A busy move ends its command in `IDLE` with a response of some kind, or stays busy without a response. -/
theorem Move.ends_or_stays_busy (m : Move i s t) (busy : s.st ≠ .idle) (noResponse : s.rspValid = false) :
    (t.st = .idle ∧ t.rspValid = true ∧ t.rspKind.isSome = true) ∨ (t.st ≠ .idle ∧ t.rspValid = false) := by
  cases m with
  | accepted _ idle | acceptedMeasure _ idle | pure _ _ idle | refused _ idle => exact absurd idle busy
  | failed | done | timedOut => exact .inl ⟨rfl, rfl, rfl⟩
  | toWrite | started | ready => exact .inr ⟨nofun, noResponse⟩
  | polled => exact .inr ⟨busy, noResponse⟩

end

/-- Settles O36: the step runs the command, whose opcode and argument are the halves of the word. -/
theorem acceptLatchesThePresentedWord : Obligations.AcceptLatchesThePresentedWord := by
  intro s i first released idle valid decodes path
  obtain ⟨op, arg, wf⟩ := decodeParts_command decodes
  rw [step_accept released idle valid decodes, exec_accepts idle wf path, accept, op, arg]
  rfl

/-- Settles O41: the latched command makes a call, which is never answered. -/
theorem silentTransportLeavesTheBlockStuck : Obligations.SilentTransportLeavesTheBlockStuck := by
  intro s released fit busy silent
  obtain ⟨answered, -⟩ | ⟨-, stuck⟩ := step_busy_proceeds released fit busy
  · exact absurd silent answered
  · exact stuck

/-- Settles O42, by the four cases of a step. -/
theorem onlySilenceStopsARun : Obligations.OnlySilenceStopsARun := by
  intro s inv
  obtain ⟨fit, -⟩ := inv
  obtain ⟨u, -, hs⟩ | ⟨released, busy, -⟩ | ⟨-, idle, -, hs⟩ | ⟨-, -, -, hs⟩ := step_cases s
  · exact .inl ⟨_, hs⟩
  · obtain ⟨-, next⟩ | ⟨silent, stuck⟩ := step_busy_proceeds released fit busy
    · exact .inl next
    · exact .inr ⟨stuck, released, busy, silent⟩
  · exact .inl (hs ▸ acceptStep_next idle)
  · exact .inl ⟨_, hs⟩

/-- Settles O43: a busy step is a move of the latched command, and a run that has ended waits with an empty queue. -/
theorem commandsAndRunsEnd : Obligations.CommandsAndRunsEnd := by
  refine ⟨fun s t released fit busy next => ?_, fun s released ended => ?_⟩
  · obtain ⟨i, latched⟩ := exists_latchedInstr fit busy
    obtain ⟨-, noResponse, -⟩ := (latchesFit_busy busy latched).1 fit
    have m : Move i s t := exec_move (step_latched released busy latched ▸ next)
    obtain ⟨idle, response, kind⟩ | ⟨stays, noneYet⟩ := m.ends_or_stays_busy busy noResponse
    · exact ⟨iff_of_true idle response, fun _ => ⟨by simp [State.commandEnded, response], kind⟩⟩
    · exact ⟨iff_of_false stays (by simp [noneYet]), fun response => by simp [noneYet] at response⟩
  · obtain ⟨⟨idle, nothing⟩, queue⟩ : (s.st = .idle ∧ s.reqValid = false) ∧ s.callerQueue = [] := by
      simpa [State.runEnded] using ended
    exact step_waits ⟨released, idle, nothing⟩ queue

/-- Settles O35: the accept step runs the decoded command, and a busy step the one its latches decode to. -/
theorem stepRunsTheDecodedCommand : Obligations.StepRunsTheDecodedCommand :=
  ⟨fun _ _ => step_accept, fun _ _ _ _ released busy op arg decodes =>
    step_latched released busy (latchedInstr_of_decode op arg decodes)⟩

/-- Settles O37: the two cases of the caller's queue. -/
theorem idleBlockWaitsForACommand : Obligations.IdleBlockWaitsForACommand :=
  fun _ released idle nothing =>
    ⟨step_waits ⟨released, idle, nothing⟩, fun _ _ => step_waiting ⟨released, idle, nothing⟩⟩

end Sys2Proof.Machine

namespace Sys2Proof.Machine

open Sys2Proof

/-! ### The layout of the configuration word (30_encoding.md R84; 41_codec.md R120, R121) -/

section

variable {k : Nat} {f g : Field}

/-- An appended part multiplies what stands above it. -/
theorem append_toNat {m n : Nat} (x : BitVec m) (y : BitVec n) : (x ++ y).toNat = x.toNat * 2 ^ n + y.toNat := by
  rw [BitVec.toNat_append, ← Nat.shiftLeft_add_eq_or_of_lt y.isLt, Nat.shiftLeft_eq]

theorem encodeConfig_toNat (F : ConfigFields) :
    (encodeConfig F).toNat =
      F.status.toNat * 32768 + F.channel.toNat * 4096 + F.gain.toNat * 512 + F.mode.toNat * 256 +
        F.dataRate.toNat * 32 + F.compMode.toNat * 16 + F.compPolarity.toNat * 8 + F.compLatch.toNat * 4 +
        F.compQueue.toNat := by
  simp only [encodeConfig, append_toNat]
  omega

theorem fieldGet_toNat (w : Word) (f : Field) : (fieldGet w f).toNat = w.toNat / 2 ^ f.lo % 2 ^ f.width := by
  rw [fieldGet, BitVec.extractLsb'_toNat, Nat.shiftRight_eq_div_pow]

/-- `field_get` is the field of `decode` (41_codec.md R123). -/
theorem fieldGet_eq_fieldOf (w : Word) (f : Field) : fieldGet w f = fieldOf (decodeConfig w) f := by
  cases f <;> rfl

theorem lo_add_width_le (f : Field) : f.lo + f.width ≤ 16 := by cases f <;> decide

/-- Two fields stand one above the other (30_encoding.md R84). -/
theorem fields_disjoint (ne : g ≠ f) : g.lo + g.width ≤ f.lo ∨ f.lo + f.width ≤ g.lo := by
  cases f <;> cases g <;> simp [Field.lo, Field.width] at ne ⊢

/-! ### Records, field by field (00_scope.md R12) -/

/-- Two records with the same nine fields are equal. -/
theorem eq_of_fieldOf_eq {F G : ConfigFields} (same : ∀ f, fieldOf F f = fieldOf G f) : F = G :=
  (ConfigFields.mk.injEq ..).mpr ⟨same .status, same .channel, same .gain, same .mode, same .dataRate, same .compMode,
    same .compPolarity, same .compLatch, same .compQueue⟩

theorem fieldOf_withField_same (F : ConfigFields) (f : Field) (v : BitVec f.width) :
    fieldOf (withField F f v) f = v := by
  cases f <;> rfl

theorem fieldOf_withField_ne (F : ConfigFields) (v : BitVec f.width) (ne : g ≠ f) :
    fieldOf (withField F f v) g = fieldOf F g := by
  cases f <;> cases g <;> trivial

/-! ### `decode` undoes `encode` (41_codec.md R122) -/

theorem fieldGet_encodeConfig (F : ConfigFields) (f : Field) : fieldGet (encodeConfig F) f = fieldOf F f := by
  apply BitVec.eq_of_toNat_eq
  rw [fieldGet_toNat, encodeConfig_toNat]
  cases f <;> simp only [Field.lo, Field.width, fieldOf] <;> omega

theorem decodeConfig_encodeConfig (F : ConfigFields) : decodeConfig (encodeConfig F) = F :=
  eq_of_fieldOf_eq fun f => by rw [← fieldGet_eq_fieldOf, fieldGet_encodeConfig]

/-! ### One field read and replaced (41_codec.md R123) -/

theorem fieldGet_getLsbD (w : Word) (f : Field) (k : Nat) :
    (fieldGet w f).getLsbD k = (decide (k < f.width) && w.getLsbD (f.lo + k)) :=
  BitVec.getLsbD_extractLsb' ..

theorem fieldSet_getLsbD (w : Word) (f : Field) (v : BitVec f.width) (hk : k < 16) :
    (fieldSet w f v).getLsbD k =
      if f.lo ≤ k ∧ k < f.lo + f.width then v.getLsbD (k - f.lo) else w.getLsbD k := by
  have small : k - f.lo < 16 := by omega
  simp only [fieldSet, BitVec.getLsbD_or, BitVec.getLsbD_and, BitVec.getLsbD_not, BitVec.getLsbD_shiftLeft,
    BitVec.getLsbD_setWidth, BitVec.getLsbD_allOnes, hk, small, decide_true, Bool.true_and]
  split
  · next inside =>
    have notBelow : ¬ k < f.lo := by omega
    have inWidth : k - f.lo < f.width := by omega
    simp [notBelow, inWidth]
  · next outside =>
    by_cases below : k < f.lo
    · simp [below]
    · have above : f.width ≤ k - f.lo := by omega
      simp [below, above]

theorem fieldGet_fieldSet_same (w : Word) (f : Field) (v : BitVec f.width) : fieldGet (fieldSet w f v) f = v := by
  have := lo_add_width_le f
  ext k hk
  rw [← BitVec.getLsbD_eq_getElem, fieldGet_getLsbD, fieldSet_getLsbD w f v (by omega)]
  simp [hk]

theorem fieldGet_fieldSet_ne (w : Word) (v : BitVec f.width) (ne : g ≠ f) :
    fieldGet (fieldSet w f v) g = fieldGet w g := by
  have := lo_add_width_le g
  have apart := fields_disjoint ne
  ext k hk
  rw [← BitVec.getLsbD_eq_getElem, ← BitVec.getLsbD_eq_getElem, fieldGet_getLsbD, fieldGet_getLsbD,
    fieldSet_getLsbD w f v (by omega), if_neg (by omega)]

/-- Replacing a field's bits replaces that field of the record. -/
theorem decodeConfig_fieldSet (w : Word) (f : Field) (v : BitVec f.width) :
    decodeConfig (fieldSet w f v) = withField (decodeConfig w) f v := by
  refine eq_of_fieldOf_eq fun g => ?_
  rw [← fieldGet_eq_fieldOf]
  by_cases same : g = f
  · subst same
    rw [fieldGet_fieldSet_same, fieldOf_withField_same]
  · rw [fieldGet_fieldSet_ne w v same, fieldOf_withField_ne _ v same, fieldGet_eq_fieldOf]

end

/-- Settles O8: each clause is `fieldGet_toNat` at one field. The rule gives the top field without a remainder and the
bottom field without a quotient. -/
theorem configDecodeReadsTheLayout : Obligations.ConfigDecodeReadsTheLayout := by
  refine ⟨fun w => ⟨?_, fieldGet_toNat w .channel, fieldGet_toNat w .gain, fieldGet_toNat w .mode,
    fieldGet_toNat w .dataRate, fieldGet_toNat w .compMode, fieldGet_toNat w .compPolarity,
    fieldGet_toNat w .compLatch, ?_⟩, by decide, by decide, by decide⟩
  · have top : w.toNat / 32768 < 2 := Nat.div_lt_of_lt_mul w.isLt
    exact (fieldGet_toNat w .status).trans (Nat.mod_eq_of_lt top)
  · exact (fieldGet_toNat w .compQueue).trans (congrArg (· % 4) (Nat.div_one w.toNat))

/-- Settles O9: the layout is a sum for every record. -/
theorem configEncodePacksTheLayout : Obligations.ConfigEncodePacksTheLayout := ⟨encodeConfig_toNat, by decide⟩

/-- Settles O10: each round trip is the identity. -/
theorem configCodecIsABijection : Obligations.ConfigCodecIsABijection :=
  ⟨encodeConfig_decodeConfig, decodeConfig_encodeConfig⟩

/-- Settles O11: bit by bit, and for the agreement with `encode`, because both words decode to the same record. -/
theorem fieldHelpersAgreeWithTheCodec : Obligations.FieldHelpersAgreeWithTheCodec := by
  intro w f v
  refine ⟨fun k inField => ?_, fun k inWord => fieldSet_getLsbD w f v inWord, fieldGet_eq_fieldOf w f, ?_⟩
  · rw [fieldGet_getLsbD, decide_eq_true inField, Bool.true_and]
  · rw [← decodeConfig_fieldSet, encodeConfig_decodeConfig]

end Sys2Proof.Machine

namespace Sys2Proof.Machine

open Sys2Proof

/-! ### The upper twelve bits of a result or threshold word (41_codec.md R124, R125, R126) -/

theorem resultDecode_toNat (w : Word) : (resultDecode w).toNat = w.toNat / 16 := by
  have := w.isLt
  rw [resultDecode, BitVec.extractLsb'_toNat, Nat.shiftRight_eq_div_pow]
  omega

/-- The two decoders give the same bits, which R124 reads as unsigned and R125 as signed. -/
theorem thresholdDecode_toNat (w : Word) : (thresholdDecode w).toNat = w.toNat / 16 := resultDecode_toNat w

theorem thresholdDecode_toInt (w : Word) : (thresholdDecode w).toInt = w.toInt / 16 := by
  simp only [BitVec.toInt_eq_toNat_cond, thresholdDecode_toNat]
  omega

theorem thresholdEncode_toNat (t : Code) : (thresholdEncode t).toNat = t.toNat * 16 := append_toNat t 0#4

theorem thresholdDecode_append_padding (w : Word) : thresholdDecode w ++ w.extractLsb' 0 4 = w :=
  (BitVec.extractLsb'_append_extractLsb'_eq_extractLsb' rfl).trans BitVec.extractLsb'_eq_self

/-- A word comes back from its threshold exactly when its padding is zero. -/
theorem thresholdEncode_thresholdDecode_eq_self {w : Word} :
    thresholdEncode (thresholdDecode w) = w ↔ w.extractLsb' 0 4 = 0 := by
  calc thresholdEncode (thresholdDecode w) = w
      ↔ thresholdDecode w ++ 0#4 = thresholdDecode w ++ w.extractLsb' 0 4 := by
        rw [thresholdDecode_append_padding, thresholdEncode]
    _ ↔ w.extractLsb' 0 4 = 0 := (BitVec.append_right_inj _).trans eq_comm

theorem sext16_toInt (t : Code) : (sext16 t).toInt = t.toInt := BitVec.toInt_signExtend_of_le (by decide)

theorem zext16_toNat (c : Code) : (zext16 c).toNat = c.toNat := BitVec.toNat_setWidth_of_le (by decide)

/-- Settles O12: the padding is below the quotient by 16. -/
theorem resultDecodeIsUnsigned : Obligations.ResultDecodeIsUnsigned :=
  ⟨resultDecode_toNat, by decide, by decide, by decide, by decide⟩

/-- Settles O13: the signed word's quotient by 16; words with the same upper twelve bits have the same quotient. -/
theorem thresholdDecodeIsSigned : Obligations.ThresholdDecodeIsSigned := by
  refine ⟨fun w =>
      ⟨thresholdDecode_toInt w, BitVec.le_toInt _, Int.le_sub_one_of_lt BitVec.toInt_lt, fun v same => ?_⟩,
    by decide, by decide, by decide, by decide, by decide⟩
  exact BitVec.eq_of_toNat_eq (by rw [thresholdDecode_toNat, thresholdDecode_toNat, same])

/-- Settles O14: a word is its threshold above its padding, and encoding puts zeros in the padding's place. -/
theorem thresholdEncodeLeftJustifies : Obligations.ThresholdEncodeLeftJustifies :=
  ⟨fun t => ⟨thresholdEncode_toNat t, BitVec.extractLsb'_append_eq_left, BitVec.extractLsb'_append_eq_right⟩,
    fun _ => ⟨rfl, thresholdEncode_thresholdDecode_eq_self.not⟩, by decide, by decide⟩

section

variable {s : State} {arg : Word}

/-! ### The pure codec commands in their accept step (41_codec.md R127 to R131) -/

theorem pureComplete_responds (v : Word) (F : Option ConfigFields) (idle : s.st = .idle) :
    pureComplete v F s = .next (responded [] ⟨.ok, v, F, none⟩ s.answers { s with reqValid := false }) := by
  rw [pureComplete_idle v F idle, complete_takeRequest]

theorem execThEncode_responds (idle : s.st = .idle) (fits : thresholdFits arg = true) :
    execThEncode arg s =
      .next (responded [] (okResponse (thresholdWord arg)) s.answers { s with reqValid := false }) := by
  simp only [execThEncode, idle, fits, if_true]
  exact pureComplete_responds _ _ idle

theorem execThEncode_refuses (idle : s.st = .idle) (unfit : ¬ thresholdFits arg = true) :
    execThEncode arg s = .next (refusedFor .thresholdOutOfRange s) := by
  simp only [execThEncode, idle, unfit]
  rfl

end

/-- Settles O16: the word of `req_fields`, which decodes to them again. -/
theorem cfgEncodeRespondsWithTheWord : Obligations.CfgEncodeRespondsWithTheWord :=
  fun _ s idle => ⟨_, pureComplete_responds _ _ idle, decodeConfig_encodeConfig s.reqFields⟩

/-- Settles O17: the fields of the word, which encode to it again. -/
theorem cfgDecodeRespondsWithTheFields : Obligations.CfgDecodeRespondsWithTheFields :=
  fun word _ idle => ⟨_, pureComplete_responds _ _ idle, encodeConfig_decodeConfig word⟩

/-- Settles O18: the responses are the codec's, extended to 16 bits; the admission check is the range. -/
theorem pureThresholdAndResultCommandsComplete : Obligations.PureThresholdAndResultCommandsComplete := by
  intro arg s idle
  refine ⟨⟨_, pureComplete_responds _ _ idle, ?_⟩, ⟨_, pureComplete_responds _ _ idle, ?_⟩,
    fun inRange => ?_, fun outOfRange => ?_⟩
  · rw [sext16_toInt, thresholdDecode_toInt]
  · rw [zext16_toNat, resultDecode_toNat]
  · have fits := thresholdFits_iff.2 inRange
    exact ⟨_, execThEncode_responds idle fits, thresholdWord_toInt fits⟩
  · exact execThEncode_refuses idle (mt thresholdFits_iff.1 outOfRange)

end Sys2Proof.Machine

namespace Sys2Proof.Machine

open Sys2Proof

section

variable {i : Instr} {s t : State} {r : Reg} {v : Word} {k : Word → State → Result} {a : Answer} {rest : Answers}
  {f : Field} {arg : Word}

/-! ### A command's last call (40_sequencer.md R104, R106; 60_exceptions.md R221) -/

theorem completeOk_answered (c : Call) :
    completeOk v (answered c a rest s) = responded [callEvent c a] (okResponse v) rest s :=
  complete_answered .ok none 0 c

theorem abort_answered (c : Call) :
    abort a.status (answered c a rest s) = responded [callEvent c a] (transportErrorResponse a.status) rest s :=
  complete_answered .transportError none a.status c

/-- A failing read ends its command with the status of its answer. -/
theorem memRead_aborts (ans : s.draw = some (a, rest)) (bad : a.status ≠ 0) :
    memRead r k s =
      .next (responded [failedRead s.params r a.status] (transportErrorResponse a.status) rest s) := by
  rw [memRead_fails ans bad, abort_answered, callEvent_failedRead bad]

/-- A write that is its command's last call ends it, whatever the answer. -/
theorem memWrite_completes (x : Word) (ans : s.draw = some (a, rest)) :
    memWrite r v (fun s => .next (completeOk x s)) s =
      .next (responded [wrote s.params r (firstByte v) (secondByte v) a.status]
        (if a.status = 0 then okResponse x else transportErrorResponse a.status) rest s) := by
  by_cases good : a.status = 0
  · rw [memWrite_ok ans good, completeOk_answered, callEvent_wrote, if_pos good]
  · rw [memWrite_fails ans good, abort_answered, callEvent_wrote, if_neg good]

/-! ### From a presented word to its command's busy states (40_sequencer.md R102, R103, R106) -/

/-- A presented and admitted command that uses the transport, other than MEASURE, enters its first busy state. -/
theorem step_presents_accepts {op : BitVec 8} {first : Seq} (h : presents s op arg) (word : encode i = op ++ arg)
    (wf : i.wellFormed = true) (path : (busyPath i).head? = some first) (other : first ≠ .mReq) :
    step s = .next (accept i first s) := by
  obtain ⟨released, idle, valid, cmd⟩ := h
  have decodes : decode s.reqCmd = .command i := decode_eq_command.2 ⟨word.trans cmd.symm, wf⟩
  rw [step_accept released idle valid decodes, exec_accepts idle wf path, if_neg other]
  rfl

/-- A presented and admitted command makes its first transaction in the second step, as the accepted command. -/
theorem steps_presents {op : BitVec 8} {first : Seq} (h : presents s op arg) (word : encode i = op ++ arg)
    (wf : i.wellFormed = true) (path : (busyPath i).head? = some first) (other : first ≠ .mReq)
    (runs : exec i (accept i first s) = .next t) : steps 2 s = .next t := by
  obtain ⟨released, -⟩ := id h
  obtain ⟨-, busy, -⟩ := busyPath_head path
  have latched := latchedInstr_accept (s := s) first (decodeParts_opcode_argument.2 ⟨wf, rfl⟩)
  have second : step (accept i first s) = .next t :=
    (step_latched (s := accept i first s) released busy latched).trans runs
  exact (steps_succ (step_presents_accepts h word wf path other)).trans (steps_succ second)

/-! ### GET_x (42_config_access.md R140) -/

theorem getField_getRd (st : s.st = .getRd) : getField f arg s =
    memRead .config (fun cur s => .next (completeOk (zext16 (fieldGet cur f)) s)) s := by
  simp only [getField, st]

/-- The read of a GET gives its field, extended to 16 bits. -/
theorem getField_responds (st : s.st = .getRd) (ans : s.draw = some (a, rest)) (good : a.status = 0) :
    getField f arg s = .next (responded [okRead s.params .config a.b0 a.b1]
      (okResponse (zext16 (fieldGet (wordOfBytes a.b0 a.b1) f))) rest s) := by
  rw [getField_getRd st, memRead_ok ans good, completeOk_answered, callEvent_okRead good]

/-- A GET whose read fails ends with the status of the read. -/
theorem getField_aborts (st : s.st = .getRd) (ans : s.draw = some (a, rest)) (bad : a.status ≠ 0) :
    getField f arg s =
      .next (responded [failedRead s.params .config a.status] (transportErrorResponse a.status) rest s) := by
  rw [getField_getRd st, memRead_aborts ans bad]

/-- The value of a field of the word just read. -/
theorem zext16_fieldGet_toNat (b0 b1 : Byte) (f : Field) :
    (zext16 (fieldGet (wordOfBytes b0 b1) f)).toNat = (b0.toNat * 256 + b1.toNat) / 2 ^ f.lo % 2 ^ f.width := by
  have fits : f.width ≤ 16 := le_of_add_le_right (lo_add_width_le f)
  rw [zext16, BitVec.toNat_setWidth_of_le fits, fieldGet_toNat, wordOfBytes_toNat]

theorem busyPath_getInstr_head (f : Field) (arg : Word) : (busyPath (getInstr f arg)).head? = some .getRd := by
  rw [busyPath_getInstr]
  rfl

/-- A presented GET word is accepted in one step, and its read is the second. -/
theorem steps_getField (h : presents s (BitVec.ofNat 8 (0x10 + f.index)) arg)
    (reads : getField f arg (accept (getInstr f arg) .getRd s) = .next t) : steps 2 s = .next t :=
  steps_presents h (encode_getInstr f arg) (wellFormed_getInstr f arg) (busyPath_getInstr_head f arg) nofun
    ((exec_getInstr f arg _).trans reads)

end

/-- Settles O19: the read step, with either answer. -/
theorem getRespondsWithItsField : Obligations.GetRespondsWithItsField := by
  intro f ignored s a rest st ans
  rw [exec_getInstr]
  exact ⟨fun good => ⟨_, getField_responds st ans good, zext16_fieldGet_toNat a.b0 a.b1 f⟩, getField_aborts st ans⟩

/-- Settles O20: the accept step, and the read step with either answer from the state it leaves. -/
theorem getRunsInOneRead : Obligations.GetRunsInOneRead := by
  intro f arg s a rest presented ans
  refine ⟨fun good => ⟨_, ?_, zext16_fieldGet_toNat a.b0 a.b1 f⟩, fun bad => ?_⟩
  · rw [steps_getField presented (getField_responds rfl ans good), responded_accept]
    rfl
  · rw [steps_getField presented (getField_aborts rfl ans bad), responded_accept]
    rfl

section

variable {s t : State} {a b : Answer} {rest more : Answers} {f : Field} {arg w : Word}

/-! ### The operand of SET_x (30_encoding.md R82, R83; 42_config_access.md R142) -/

/-- A presented SET word decodes as its field admits. -/
theorem decode_setWord (f : Field) (arg : Word) :
    decode (BitVec.ofNat 8 (0x20 + f.index) ++ arg) = decodeSet f arg := by
  rw [decode_append]
  cases f <;> rfl

theorem opcode_setInstr_eq (f : Field) (arg : Word) : opcode (setInstr f arg) = BitVec.ofNat 8 (0x20 + f.index) := by
  cases f <;> rfl

/-- The operand of an argument in the field's range is the argument. -/
theorem fieldOperand_toNat (small : arg.toNat < 2 ^ f.width) : (fieldOperand f arg).toNat = arg.toNat := by
  rw [fieldOperand, BitVec.extractLsb'_toNat, Nat.shiftRight_zero, Nat.mod_eq_of_lt small]

theorem busyPath_setInstr_head (f : Field) (arg : Word) : (busyPath (setInstr f arg)).head? = some .setRd := by
  rw [busyPath_setInstr]
  rfl

/-- A presented SET word with an admitted argument enters `SET_RD`. -/
theorem step_presents_set (h : presents s (BitVec.ofNat 8 (0x20 + f.index)) arg) (fits : argFits f arg = true) :
    step s = .next (accept (setInstr f arg) .setRd s) :=
  step_presents_accepts h (encode_setInstr f arg) ((wellFormed_setInstr f arg).trans fits)
    (busyPath_setInstr_head f arg) nofun

/-! ### `SET_RD` and `SET_WR` (42_config_access.md R141) -/

/-- `s` in `SET_WR` with the word `w` to write, after the read `e` and with the answers `rest` still to come. -/
def readyToWrite (w : Word) (e : Event) (rest : Answers) (s : State) : State :=
  { s with st := .setWr, wL := some w, answers := rest, trace := s.trace ++ [e] }

theorem setField_setRd (st : s.st = .setRd) :
    setField f arg s = memRead .config (setRead f (fieldOperand f arg)) s := by
  simp only [setField, st]

/-- A SET whose read fails ends with the status of the read. -/
theorem setField_aborts (st : s.st = .setRd) (ans : s.draw = some (a, rest)) (bad : a.status ≠ 0) :
    setField f arg s =
      .next (responded [failedRead s.params .config a.status] (transportErrorResponse a.status) rest s) := by
  rw [setField_setRd st, memRead_aborts ans bad]

/-- A SET of a field that already holds the value writes nothing. -/
theorem setField_unchanged (st : s.st = .setRd) (ans : s.draw = some (a, rest)) (good : a.status = 0)
    (same : fieldGet (wordOfBytes a.b0 a.b1) f = fieldOperand f arg) :
    setField f arg s = .next (responded [okRead s.params .config a.b0 a.b1] (okResponse 0) rest s) := by
  rw [setField_setRd st, memRead_ok ans good, setRead, if_pos same, completeOk_answered, callEvent_okRead good]

/-- A SET of a field that holds another value goes on to write the word just read with that field replaced. -/
theorem setField_changed (st : s.st = .setRd) (ans : s.draw = some (a, rest)) (good : a.status = 0)
    (change : fieldGet (wordOfBytes a.b0 a.b1) f ≠ fieldOperand f arg) :
    setField f arg s = .next (readyToWrite (fieldSet (wordOfBytes a.b0 a.b1) f (fieldOperand f arg))
      (okRead s.params .config a.b0 a.b1) rest s) := by
  rw [setField_setRd st, memRead_ok ans good, setRead, if_neg change, answered, callEvent_okRead good]
  rfl

/-- The write of a SET ends it, whatever the answer. -/
theorem setField_writes (st : s.st = .setWr) (latched : s.wL = some w) (ans : s.draw = some (a, rest)) :
    setField f arg s = .next (responded [wrote s.params .config (firstByte w) (secondByte w) a.status]
      (if a.status = 0 then okResponse 0 else transportErrorResponse a.status) rest s) := by
  simp only [setField, st, latched]
  exact memWrite_completes 0 ans

theorem fieldSet_eq_encodeConfig (w : Word) (f : Field) (v : BitVec f.width) :
    fieldSet w f v = encodeConfig (withField (decodeConfig w) f v) := by
  rw [← decodeConfig_fieldSet, encodeConfig_decodeConfig]

/-! ### From a presented SET word to its response -/

/-- A presented and admitted SET word is accepted in one step, and its read is the second. -/
theorem steps_setRead (h : presents s (BitVec.ofNat 8 (0x20 + f.index)) arg) (fits : argFits f arg = true)
    (reads : setField f arg (accept (setInstr f arg) .setRd s) = .next t) : steps 2 s = .next t :=
  steps_presents h (encode_setInstr f arg) ((wellFormed_setInstr f arg).trans fits) (busyPath_setInstr_head f arg)
    nofun ((exec_setInstr f arg _).trans reads)

/-- The response after the write of a SET, seen from the state before its read. -/
theorem responded_readyToWrite (es : List Event) (p : Response) (e : Event) :
    responded es p rest (readyToWrite w e more s) = responded (e :: es) p rest s := by
  simp [responded, readyToWrite]

/-- The step after the read of a SET runs that SET again, since the read leaves its latches, and writes. -/
theorem step_readyToWrite (released : s.resetPin = .released) (latched : latchedInstr s = some (setInstr f arg))
    (e : Event) (ans : more.draw s.params.statusW = some (b, rest)) :
    step (readyToWrite w e more s) =
      .next (responded [e, wrote s.params .config (firstByte w) (secondByte w) b.status]
        (if b.status = 0 then okResponse 0 else transportErrorResponse b.status) rest s) := by
  rw [← responded_readyToWrite]
  calc step (readyToWrite w e more s)
    _ = exec (setInstr f arg) (readyToWrite w e more s) :=
      step_latched (s := readyToWrite w e more s) released nofun latched
    _ = setField f arg (readyToWrite w e more s) := exec_setInstr ..
    _ = _ := setField_writes rfl rfl ans

/-- A presented and admitted SET word whose read goes on to a write is answered by that write, the third step. -/
theorem steps_setWrite (h : presents s (BitVec.ofNat 8 (0x20 + f.index)) arg) (fits : argFits f arg = true) (e : Event)
    (reads : setField f arg (accept (setInstr f arg) .setRd s) =
      .next (readyToWrite w e more (accept (setInstr f arg) .setRd s)))
    (ans : more.draw s.params.statusW = some (b, rest)) :
    steps 3 s = .next (responded [e, wrote s.params .config (firstByte w) (secondByte w) b.status]
      (if b.status = 0 then okResponse 0 else transportErrorResponse b.status) rest { s with reqValid := false }) := by
  obtain ⟨released, -⟩ := id h
  have latched := latchedInstr_accept (s := s) .setRd
    (decodeParts_opcode_argument.2 ⟨(wellFormed_setInstr f arg).trans fits, rfl⟩)
  have writes := step_readyToWrite (s := accept (setInstr f arg) .setRd s) (w := w) released latched e ans
  rw [steps_add (n := 1) (steps_setRead h fits reads), steps_succ writes, responded_accept]
  rfl

end

/-- Settles O5: the field's admission check is the range, and the word of an argument out of it does not decode. -/
theorem setAdmitsExactlyFieldValues : Obligations.SetAdmitsExactlyFieldValues := by
  intro f arg s presented
  by_cases fits : argFits f arg = true
  · rw [if_pos (argFits_iff.1 fits), step_presents_set presented fits, accept, opcode_setInstr_eq, argument_setInstr]
    rfl
  · obtain ⟨-, -, -, word⟩ := id presented
    have refuses : decode s.reqCmd = .refuse .argOutOfField := by
      rw [word, decode_setWord, decodeSet, if_neg fits]
    rw [if_neg (mt argFits_iff.2 fits), step_presents presented, acceptStep_refuse refuses]
    rfl

/-- Settles O21: the compare is of the field of the word read, and `field_set` is the codec's replacement. -/
theorem setReadComparesTheField : Obligations.SetReadComparesTheField := by
  intro f arg s a rest st ans good
  rw [← fieldGet_eq_fieldOf, exec_setInstr, ← fieldSet_eq_encodeConfig]
  exact ⟨setField_unchanged st ans good, setField_changed st ans good⟩

/-- Settles O22: the write of `w_l` is the last call of a SET. -/
theorem setWriteSendsTheLatchedWord : Obligations.SetWriteSendsTheLatchedWord := by
  intro f arg w s a rest st latched ans
  rw [exec_setInstr]
  exact setField_writes st latched ans

/-- Settles O23: the accept step, the read step in its three cases, and after a change the write step. -/
theorem setRunsReadModifyWrite : Obligations.SetRunsReadModifyWrite := by
  intro f arg s a more presented small ans
  have fits := argFits_iff.2 small
  have operand : BitVec.ofNat f.width arg.toNat = fieldOperand f arg :=
    BitVec.eq_of_toNat_eq (by rw [BitVec.toNat_ofNat, Nat.mod_eq_of_lt small, fieldOperand_toNat small])
  have compare : (fieldOf (decodeConfig (wordOfBytes a.b0 a.b1)) f).toNat = arg.toNat ↔
      fieldGet (wordOfBytes a.b0 a.b1) f = fieldOperand f arg := by
    rw [fieldGet_eq_fieldOf, ← BitVec.toNat_inj, fieldOperand_toNat small]
  refine ⟨fun bad => ?_, fun good same => ?_, fun good change b rest gives => ?_⟩
  · rw [steps_setRead presented fits (setField_aborts rfl ans bad), responded_accept]
    rfl
  · rw [steps_setRead presented fits (setField_unchanged rfl ans good (compare.1 same)), responded_accept]
    rfl
  · obtain ⟨more', ansA, _, ansB, rfl⟩ := gives
    cases ans.symm.trans ansA
    have reads := setField_changed (s := accept (setInstr f arg) .setRd s) rfl ans good (mt compare.2 change)
    exact ⟨_, steps_setWrite presented fits _ reads ansB, by rw [decodeConfig_fieldSet, operand]⟩

section

variable {i : Instr} {s t : State} {f : Field}

/-! ### The word to write and the word read (42_config_access.md R141; 70_reset_and_hazards.md R244) -/

/-- Only the read step of a SET whose field changes leads to `SET_WR`. -/
theorem Move.enters_setWr (m : Move i s t) (writing : t.st = .setWr) :
    ∃ (f : Field) (arg : Word) (a : Answer) (rest : Answers),
    i = setInstr f arg ∧ s.st = .setRd ∧ fieldGet (wordOfBytes a.b0 a.b1) f ≠ fieldOperand f arg ∧
      t = readyToWrite (fieldSet (wordOfBytes a.b0 a.b1) f (fieldOperand f arg))
        (okRead s.params .config a.b0 a.b1) rest s := by
  cases m with
  | toWrite f arg a rest is st ans good change =>
    exact ⟨f, arg, a, rest, is, st, change, by rw [answered, callEvent_okRead good]; rfl⟩
  | accepted first idle wf path =>
    obtain ⟨-, -, notWr, -⟩ := busyPath_head path
    exact absurd writing notWr
  | refused r idle => simp [idle] at writing
  | polled g n a rest is st => simp [st] at writing
  | acceptedMeasure | pure | failed | done | started | ready | timedOut => cases writing

/-- A step that leaves the block in `SET_WR` is a move of the latched command. -/
theorem StepMove.enters_setWr (m : StepMove s t) (writing : t.st = .setWr) :
    ∃ (f : Field) (arg : Word) (a : Answer) (rest : Answers),
    latchedInstr s = some (setInstr f arg) ∧ fieldGet (wordOfBytes a.b0 a.b1) f ≠ fieldOperand f arg ∧
      t = readyToWrite (fieldSet (wordOfBytes a.b0 a.b1) f (fieldOperand f arg))
        (okRead s.params .config a.b0 a.b1) rest s := by
  cases m with
  | reset u => cases writing
  | transaction i pin busy latched move =>
    obtain ⟨f, arg, a, rest, rfl, -, change, eq⟩ := move.enters_setWr writing
    exact ⟨f, arg, a, rest, latched, change, eq⟩
  | accept i pin idle valid decodes move =>
    obtain ⟨f, arg, a, rest, -, st, -⟩ := move.enters_setWr writing
    simp [idle] at st
  | refuse reason pin idle => simp [idle] at writing
  | caller pin idle =>
    obtain ⟨valid, cmd, fields, queue, eq⟩ := callerMove_eq s
    rw [eq] at writing
    simp [idle] at writing

theorem fieldSet_getLsbD_outside {k : Nat} (w : Word) (v : BitVec f.width) (hk : k < 16)
    (outside : ¬ (f.lo ≤ k ∧ k < f.lo + f.width)) : (fieldSet w f v).getLsbD k = w.getLsbD k := by
  rw [fieldSet_getLsbD w f v hk, if_neg outside]

theorem fieldSet_ne_self {w : Word} {v : BitVec f.width} (change : fieldGet w f ≠ v) : fieldSet w f v ≠ w :=
  fun same => change (by rw [← same, fieldGet_fieldSet_same])

/-- Every field but `status` stands below bit 15 (30_encoding.md R84). -/
theorem lo_add_width_le_of_ne_status (ne : f ≠ .status) : f.lo + f.width ≤ 15 := by
  cases f with
  | status => exact absurd rfl ne
  | _ => decide

theorem conversionComplete_fieldSet (w : Word) (v : BitVec f.width) (ne : f ≠ .status) :
    conversionComplete (fieldSet w f v) = conversionComplete w := by
  have below := lo_add_width_le_of_ne_status ne
  exact fieldSet_getLsbD_outside w v (by decide) (by omega)

end

/-- Settles O24: the word to write is `field_set` of the word just read, whose latched command is still held. -/
theorem writeBackChangesOneFieldOnly : Obligations.WriteBackChangesOneFieldOnly := by
  intro s t next writing
  obtain ⟨f, arg, a, rest, latched, change, rfl⟩ := (step_move next).enters_setWr writing
  exact ⟨f, arg, a.b0, a.b1, _, latched, rfl, rfl, fieldSet_ne_self change, fieldGet_fieldSet_same _ f _,
    fun k hk => fieldSet_getLsbD_outside _ _ hk, conversionComplete_fieldSet _ _⟩

end Sys2Proof.Machine

namespace Sys2Proof.Machine

open Sys2Proof

section

variable {s : State} {a : Answer} {rest more : Answers} {F : ConfigFields} {g : Word} {k : Nat}

/-! ### Bit 15 of the configuration word (43_measure.md R181, R182) -/

/-- Setting the status field to 1 sets bit 15 and no other bit. -/
theorem fieldSet_status_one (w : Word) : fieldSet w .status 1 = w ||| 0x8000 := by
  have mask : (BitVec.allOnes Field.status.width).setWidth 16 <<< Field.status.lo = 0x8000#16 := by decide
  have bit : (1 : BitVec Field.status.width).setWidth 16 <<< Field.status.lo = 0x8000#16 := by decide
  rw [fieldSet, mask, bit]
  ext j
  simp only [BitVec.getElem_or, BitVec.getElem_and, BitVec.getElem_not]
  cases (0x8000#16)[j] <;> simp

/-- MEASURE writes the caller's word with bit 15 forced to 1. -/
theorem encodeConfig_startFields (F : ConfigFields) : encodeConfig (startFields F) = encodeConfig F ||| 0x8000 := by
  have start : startFields F = withField F .status 1 := rfl
  rw [start, ← fieldSet_status_one, fieldSet_eq_encodeConfig, decodeConfig_encodeConfig]

/-- Bit 15 of a word read is the top bit of its first byte. -/
theorem conversionComplete_wordOfBytes (b0 b1 : Byte) :
    conversionComplete (wordOfBytes b0 b1) = decide (128 ≤ b0.toNat) := by
  rw [conversionComplete, wordOfBytes, BitVec.getLsbD_append]
  exact BitVec.msb_eq_decide b0

/-! ### The poll limit (43_measure.md R182) -/

theorem pollLimitReached_eq_false {limit : Option Nat} :
    pollLimitReached limit k = false ↔ ∀ n, limit = some n → k < n := by
  cases limit <;> simp [pollLimitReached]

theorem pollLimitReached_eq_true {limit : Option Nat} :
    pollLimitReached limit k = true ↔ ∃ n, limit = some n ∧ n ≤ k := by
  cases limit <;> simp [pollLimitReached]

/-! ### The transactions of MEASURE (43_measure.md R181 to R183) -/

/-- `s` after the events `es`, in `M_POLL` with `k` polls counted and the answers `rest` still to come. -/
def polling (k : Nat) (es : List Event) (rest : Answers) (s : State) : State :=
  { s with st := .mPoll, npoll := some k, answers := rest, trace := s.trace ++ es }

/-- `s` after the events `es`, in `M_READY` after `k` busy polls and with the answers `rest` still to come. -/
def converted (k : Nat) (es : List Event) (rest : Answers) (s : State) : State :=
  { polling k es rest s with st := .mReady }

theorem measure_idle (idle : s.st = .idle) : exec (.measure g) s = .next (measureAccept g s) := by
  simp only [exec, execMeasure, idle]

theorem measure_mReq (st : s.st = .mReq) (fin : s.finL = some F) :
    exec (.measure g) s = memWrite .config (encodeConfig F ||| 0x8000) measureStarted s := by
  simp only [exec, execMeasure, st, fin, encodeConfig_startFields]

theorem measure_mPoll (st : s.st = .mPoll) (polls : s.npoll = some k) :
    exec (.measure g) s = memRead .config (measurePolled k) s := by
  simp only [exec, execMeasure, st, polls]

theorem measure_mReady (st : s.st = .mReady) : exec (.measure g) s = memRead .conversion measureResult s := by
  simp only [exec, execMeasure, st]

/-- A start write that succeeds begins the polling. -/
theorem measure_starts (st : s.st = .mReq) (fin : s.finL = some F) (ans : s.draw = some (a, rest))
    (good : a.status = 0) : exec (.measure g) s = .next (polling 0 [startWrite s.params F 0] rest s) := by
  rw [measure_mReq st fin, memWrite_ok ans good, answered, callEvent_wrote, good]
  rfl

/-- A start write that fails ends the command with its status. -/
theorem measure_start_aborts (st : s.st = .mReq) (fin : s.finL = some F) (ans : s.draw = some (a, rest))
    (bad : a.status ≠ 0) : exec (.measure g) s =
      .next (responded [startWrite s.params F a.status] (transportErrorResponse a.status) rest s) := by
  rw [measure_mReq st fin, memWrite_fails ans bad, abort_answered, callEvent_wrote, startWrite]

/-- A poll read that fails ends the command with its status. -/
theorem measure_poll_aborts (st : s.st = .mPoll) (polls : s.npoll = some k) (ans : s.draw = some (a, rest))
    (bad : a.status ≠ 0) : exec (.measure g) s =
      .next (responded [failedRead s.params .config a.status] (transportErrorResponse a.status) rest s) := by
  rw [measure_mPoll st polls, memRead_aborts ans bad]

/-- A poll read that finds the conversion complete ends the polling. -/
theorem measure_poll_ready (st : s.st = .mPoll) (polls : s.npoll = some k) (ans : s.draw = some (a, rest))
    (good : a.status = 0) (ready : conversionComplete (wordOfBytes a.b0 a.b1) = true) :
    exec (.measure g) s = .next (converted k [okRead s.params .config a.b0 a.b1] rest s) := by
  rw [measure_mPoll st polls, memRead_ok ans good, measurePolled, if_pos ready, answered, callEvent_okRead good,
    converted, polling, ← polls]
  rfl

/-- A busy poll below the limit is counted. -/
theorem measure_poll_counts (st : s.st = .mPoll) (polls : s.npoll = some k) (ans : s.draw = some (a, rest))
    (good : a.status = 0) (busy : conversionComplete (wordOfBytes a.b0 a.b1) = false)
    (below : pollLimitReached s.params.pollLimit (k + 1) = false) :
    exec (.measure g) s = .next (polling (k + 1) [okRead s.params .config a.b0 a.b1] rest s) := by
  rw [measure_mPoll st polls, memRead_ok ans good, measurePolled, busy, answered_params, below, answered,
    callEvent_okRead good, polling, ← st]
  rfl

/-- The count of the last poll goes with the other latches. -/
theorem timeout_answered (c : Call) (npoll : Option Nat) :
    timeout { answered c a rest s with npoll := npoll } = responded [callEvent c a] timeoutResponse rest s :=
  calc timeout { answered c a rest s with npoll := npoll }
    _ = complete .timeout 0 none 0 (answered c a rest s) := rfl
    _ = responded [callEvent c a] timeoutResponse rest s := complete_answered .timeout none 0 c

/-- A busy poll that reaches the limit ends the command with TIMEOUT (60_exceptions.md R222). -/
theorem measure_poll_times_out (st : s.st = .mPoll) (polls : s.npoll = some k) (ans : s.draw = some (a, rest))
    (good : a.status = 0) (busy : conversionComplete (wordOfBytes a.b0 a.b1) = false)
    (reached : pollLimitReached s.params.pollLimit (k + 1) = true) :
    exec (.measure g) s = .next (responded [okRead s.params .config a.b0 a.b1] timeoutResponse rest s) := by
  rw [measure_mPoll st polls, memRead_ok ans good, measurePolled, busy, answered_params, reached,
    ← callEvent_okRead good, ← timeout_answered]
  rfl

/-- A read of the conversion register that succeeds ends the command with the result. -/
theorem measure_responds (st : s.st = .mReady) (ans : s.draw = some (a, rest)) (good : a.status = 0) :
    exec (.measure g) s = .next (responded [okRead s.params .conversion a.b0 a.b1]
      (okResponse (zext16 (resultDecode (wordOfBytes a.b0 a.b1)))) rest s) := by
  rw [measure_mReady st, memRead_ok ans good, measureResult, completeOk_answered, callEvent_okRead good]

/-- A read of the conversion register that fails ends the command with its status. -/
theorem measure_result_aborts (st : s.st = .mReady) (ans : s.draw = some (a, rest)) (bad : a.status ≠ 0) :
    exec (.measure g) s =
      .next (responded [failedRead s.params .conversion a.status] (transportErrorResponse a.status) rest s) := by
  rw [measure_mReady st, memRead_aborts ans bad]

/-- The result is the upper twelve bits of the two bytes, unsigned (41_codec.md R124). -/
theorem zext16_resultDecode_toNat (b0 b1 : Byte) :
    (zext16 (resultDecode (wordOfBytes b0 b1))).toNat = (b0.toNat * 256 + b1.toNat) / 16 := by
  rw [zext16_toNat, resultDecode_toNat, wordOfBytes_toNat]

end

/-- Settles O25: the start write with either answer. -/
theorem measureStartsWithBitFifteenSet : Obligations.MeasureStartsWithBitFifteenSet :=
  fun _ _ _ _ _ st fin ans => ⟨measure_starts st fin ans, measure_start_aborts st fin ans⟩

/-- Settles O26: the four cases of a poll; bit 15 is the top bit of the first byte. -/
theorem measurePollsBitFifteen : Obligations.MeasurePollsBitFifteen := by
  intro g k s a rest st polls ans
  have bit := conversionComplete_wordOfBytes a.b0 a.b1
  refine ⟨measure_poll_aborts st polls ans, fun good high => ?_, fun good low below => ?_,
    fun good low reached => ?_⟩
  · rw [measure_poll_ready st polls ans good (bit.trans (decide_eq_true high)), converted, polling, ← polls]
  · rw [measure_poll_counts st polls ans good (bit.trans (decide_eq_false low.not_ge))
      (pollLimitReached_eq_false.2 below), polling, ← st]
  · exact measure_poll_times_out st polls ans good (bit.trans (decide_eq_false low.not_ge))
      (pollLimitReached_eq_true.2 reached)

/-- Settles O27: the read of the conversion register with either answer. -/
theorem measureRespondsWithTheResult : Obligations.MeasureRespondsWithTheResult :=
  fun _ _ a _ st ans =>
    ⟨fun good => ⟨_, measure_responds st ans good, zext16_resultDecode_toNat a.b0 a.b1⟩, measure_result_aborts st ans⟩

section

variable {s : State} {a start : Answer} {rest more : Answers} {arg g : Word} {k : Nat} {busy : List Answer}
  {es fs : List Event}

/-! ### A run of MEASURE (43_measure.md R184) -/

/-- No reset is coming, and MEASURE is the latched command. -/
structure RunsMeasure (g : Word) (s : State) : Prop where
  released : s.resetPin = .released
  latched : latchedInstr s = some (.measure g)

theorem runsMeasure_measureAccept (h : presents s 0x30 arg) : RunsMeasure arg (measureAccept arg s) := by
  obtain ⟨released, -⟩ := h
  exact ⟨released, latchedInstr_accept (s := s) (i := .measure arg) .mReq (decodeParts_opcode_argument.2 ⟨rfl, rfl⟩)⟩

/-- A presented MEASURE word is accepted. -/
theorem step_presents_measure (h : presents s 0x30 arg) : step s = .next (measureAccept arg s) := by
  obtain ⟨released, idle, valid, word⟩ := h
  have decodes : decode s.reqCmd = .command (.measure arg) := decode_eq_command.2 ⟨word.symm, rfl⟩
  rw [step_accept released idle valid decodes, measure_idle idle]

/-- Polling touches neither the latched command nor the reset input. -/
theorem RunsMeasure.step_polling (runs : RunsMeasure g s) :
    step (polling k es more s) = exec (.measure g) (polling k es more s) :=
  step_latched (s := polling k es more s) runs.released nofun runs.latched

/-- Nor does a poll that finds the conversion complete. -/
theorem RunsMeasure.step_converted (runs : RunsMeasure g s) :
    step (converted k es more s) = exec (.measure g) (converted k es more s) :=
  step_latched (s := converted k es more s) runs.released nofun runs.latched

/-- The start write of a MEASURE just accepted begins the polling. -/
theorem step_measureAccept_starts (runs : RunsMeasure arg (measureAccept arg s))
    (ans : s.draw = some (a, rest)) (good : a.status = 0) : step (measureAccept arg s) =
      .next (polling 0 [startWrite s.params s.reqFields 0] rest (measureAccept arg s)) := by
  rw [step_latched runs.released nofun runs.latched]
  exact measure_starts (s := measureAccept arg s) rfl rfl ans good

theorem polling_polling (m : Nat) : polling m fs rest (polling k es more s) = polling m (es ++ fs) rest s := by
  simp [polling]

theorem responded_polling (p : Response) :
    responded fs p rest (polling k es more s) = responded (es ++ fs) p rest s := by
  simp [responded, polling]

theorem responded_converted (p : Response) :
    responded fs p rest (converted k es more s) = responded (es ++ fs) p rest s := by
  simp [responded, converted, polling]

theorem responded_measureAccept (p : Response) :
    responded es p rest (measureAccept g s) = responded es p rest { s with reqValid := false } := rfl

theorem step_polling_aborts (runs : RunsMeasure g s) (ans : more.draw s.params.statusW = some (a, rest))
    (bad : a.status ≠ 0) : step (polling k es more s) =
      .next (responded (es ++ [failedRead s.params .config a.status]) (transportErrorResponse a.status) rest s) := by
  rw [runs.step_polling, measure_poll_aborts (s := polling k es more s) rfl rfl ans bad, responded_polling]
  rfl

theorem step_polling_ready (runs : RunsMeasure g s) (ans : more.draw s.params.statusW = some (a, rest))
    (good : a.status = 0) (ready : conversionComplete (wordOfBytes a.b0 a.b1) = true) :
    step (polling k es more s) = .next (converted k (es ++ [okRead s.params .config a.b0 a.b1]) rest s) := by
  rw [runs.step_polling, measure_poll_ready (s := polling k es more s) rfl rfl ans good ready, converted,
    polling_polling]
  rfl

theorem step_polling_counts (runs : RunsMeasure g s) (ans : more.draw s.params.statusW = some (a, rest))
    (good : a.status = 0) (busy : conversionComplete (wordOfBytes a.b0 a.b1) = false)
    (below : ∀ n, s.params.pollLimit = some n → k + 1 < n) :
    step (polling k es more s) = .next (polling (k + 1) (es ++ [okRead s.params .config a.b0 a.b1]) rest s) := by
  rw [runs.step_polling, measure_poll_counts (s := polling k es more s) rfl rfl ans good busy
    (pollLimitReached_eq_false.2 below), polling_polling]
  rfl

theorem step_converted_responds (runs : RunsMeasure g s) (ans : more.draw s.params.statusW = some (a, rest))
    (good : a.status = 0) : step (converted k es more s) =
      .next (responded (es ++ [okRead s.params .conversion a.b0 a.b1])
        (okResponse (zext16 (resultDecode (wordOfBytes a.b0 a.b1)))) rest s) := by
  rw [runs.step_converted, measure_responds (s := converted k es more s) rfl ans good, responded_converted]
  rfl

theorem pollEvents_append (p : Params) (as bs : List Answer) :
    pollEvents p (as ++ bs) = pollEvents p as ++ pollEvents p bs :=
  List.map_append

/-- Busy polls below the limit, however many, are counted one by one. -/
theorem steps_busyPolls (runs : RunsMeasure g s) (polls : busyPolls busy)
    (gives : Answers.give s.params.statusW busy more rest)
    (below : ∀ n, s.params.pollLimit = some n → k + busy.length < n) :
    steps busy.length (polling k es more s) =
      .next (polling (k + busy.length) (es ++ pollEvents s.params busy) rest s) := by
  induction busy generalizing k es more with
  | nil =>
    cases gives
    simp [steps, pollEvents]
  | cons a busy ih =>
    obtain ⟨⟨good, notReady⟩, polls⟩ := List.forall_mem_cons.1 polls
    obtain ⟨_, ans, gives⟩ := gives
    have count : k + (busy.length + 1) = k + 1 + busy.length := by omega
    rw [List.length_cons, count] at below ⊢
    have next := step_polling_counts (es := es) runs ans good notReady fun n limit =>
      (Nat.le_add_right ..).trans_lt (below n limit)
    have later := ih (es := es ++ [okRead s.params .config a.b0 a.b1]) polls gives below
    rw [steps_succ next, later, List.append_assoc]
    rfl

/-- A presented MEASURE is accepted, starts with its write and polls while its polls are busy and below the limit. -/
theorem steps_measure_polling (h : presents s 0x30 arg) (gives : s.gives (start :: busy) rest)
    (good : start.status = 0) (polls : busyPolls busy)
    (below : ∀ n, s.params.pollLimit = some n → busy.length < n) :
    steps (busy.length + 2) s = .next (polling busy.length
      (startWrite s.params s.reqFields 0 :: pollEvents s.params busy) rest (measureAccept arg s)) := by
  obtain ⟨more, ans, gives⟩ := gives
  have runs := runsMeasure_measureAccept h
  have counts := steps_busyPolls (k := 0) (es := [startWrite s.params s.reqFields 0]) runs polls gives
    (by rwa [Nat.zero_add])
  rw [Nat.zero_add] at counts
  rw [steps_succ (step_presents_measure h), steps_succ (step_measureAccept_starts runs ans good), counts]
  rfl

end

/-- Settles O28: after the busy polls one poll is ready, and the result is read. -/
theorem measureCallsAreCounted : Obligations.MeasureCallsAreCounted := by
  intro arg s start busy ready result rest presented gives goodStart polls goodReady complete goodResult below
  obtain ⟨_, given, _, ansReady, _, ansResult, rfl⟩ := give_append.1 gives
  have runs := runsMeasure_measureAccept presented
  have polled := steps_measure_polling presented given goodStart polls below
  refine ⟨_, ?_, zext16_resultDecode_toNat result.b0 result.b1⟩
  rw [steps_add (n := 2) polled, steps_succ (step_polling_ready runs ansReady goodReady complete),
    steps_succ (step_converted_responds runs ansResult goodResult), responded_measureAccept, pollEvents_append]
  rfl

/-- Settles O29: after the busy polls one poll fails. -/
theorem failingPollAbortsMeasure : Obligations.FailingPollAbortsMeasure := by
  intro arg s start busy failing rest presented gives goodStart polls bad below
  obtain ⟨_, given, _, ans, rfl⟩ := give_append.1 gives
  have runs := runsMeasure_measureAccept presented
  have polled := steps_measure_polling presented given goodStart polls below
  rw [steps_add (n := 1) polled, steps_succ (step_polling_aborts runs ans bad), responded_measureAccept]
  rfl

section

variable {d : Nat} {k : Word → State → Result} {j : State → Result}

/-! ### POLL_DELAY (43_measure.md R182; 00_scope.md R7) -/

/-- `s` with the parameter `POLL_DELAY` set to `d`. -/
def withPollDelay (d : Nat) (s : State) : State := { s with params := { s.params with pollDelay := d } }

@[simp] theorem withPollDelay_st (s : State) : (withPollDelay d s).st = s.st := rfl
@[simp] theorem withPollDelay_finL (s : State) : (withPollDelay d s).finL = s.finL := rfl
@[simp] theorem withPollDelay_wL (s : State) : (withPollDelay d s).wL = s.wL := rfl
@[simp] theorem withPollDelay_npoll (s : State) : (withPollDelay d s).npoll = s.npoll := rfl
@[simp] theorem withPollDelay_reqValid (s : State) : (withPollDelay d s).reqValid = s.reqValid := rfl
@[simp] theorem withPollDelay_reqCmd (s : State) : (withPollDelay d s).reqCmd = s.reqCmd := rfl
@[simp] theorem withPollDelay_callerQueue (s : State) : (withPollDelay d s).callerQueue = s.callerQueue := rfl
@[simp] theorem withPollDelay_resetPin (s : State) : (withPollDelay d s).resetPin = s.resetPin := rfl
@[simp] theorem withPollDelay_pollLimit (s : State) :
    (withPollDelay d s).params.pollLimit = s.params.pollLimit := rfl
@[simp] theorem withPollDelay_busy (s : State) : (withPollDelay d s).busy = s.busy := rfl
@[simp] theorem latchedInstr_withPollDelay (s : State) : latchedInstr (withPollDelay d s) = latchedInstr s := rfl

/-- `f` answers the same with another `POLL_DELAY`, but for the parameter itself. -/
def IgnoresPollDelay (d : Nat) (f : State → Result) : Prop :=
  ∀ s, f (withPollDelay d s) = nextMap (withPollDelay d) (f s)

/-- A call does not depend on `POLL_DELAY`, if what follows it does not. -/
theorem memRead_ignoresPollDelay (r : Reg) (go : ∀ w, IgnoresPollDelay d (k w)) :
    IgnoresPollDelay d (memRead r k) := by
  intro s
  cases ans : s.draw with
  | none => rw [memRead_silent ans, memRead_silent (s := withPollDelay d s) ans, nextMap]
  | some drawn =>
    by_cases good : drawn.1.status = 0
    · rw [memRead_ok ans good, memRead_ok (s := withPollDelay d s) ans good, ← go]
      rfl
    · rw [memRead_fails ans good, memRead_fails (s := withPollDelay d s) ans good]
      rfl

theorem memWrite_ignoresPollDelay (r : Reg) (v : Word) (go : IgnoresPollDelay d j) :
    IgnoresPollDelay d (memWrite r v j) := by
  intro s
  cases ans : s.draw with
  | none => rw [memWrite_silent ans, memWrite_silent (s := withPollDelay d s) ans, nextMap]
  | some drawn =>
    by_cases good : drawn.1.status = 0
    · rw [memWrite_ok ans good, memWrite_ok (s := withPollDelay d s) ans good, ← go]
      rfl
    · rw [memWrite_fails ans good, memWrite_fails (s := withPollDelay d s) ans good]
      rfl

theorem getField_ignoresPollDelay (f : Field) (arg : Word) : IgnoresPollDelay d (getField f arg) := by
  intro s
  unfold getField
  rw [withPollDelay_st]
  cases s.st with
  | getRd => exact memRead_ignoresPollDelay _ (fun _ _ => rfl) s
  | _ => rfl

theorem setRead_ignoresPollDelay (f : Field) (v : BitVec f.width) (cur : Word) :
    IgnoresPollDelay d (setRead f v cur) := by
  intro s
  unfold setRead
  split <;> rfl

theorem setField_ignoresPollDelay (f : Field) (arg : Word) : IgnoresPollDelay d (setField f arg) := by
  intro s
  unfold setField
  rw [withPollDelay_st, withPollDelay_wL]
  cases s.st with
  | idle => dsimp only; split <;> rfl
  | setRd => exact memRead_ignoresPollDelay _ (setRead_ignoresPollDelay f _) s
  | setWr =>
    cases s.wL with
    | none => rfl
    | some w => exact memWrite_ignoresPollDelay _ w (fun _ => rfl) s
  | _ => rfl

theorem measurePolled_ignoresPollDelay (n : Nat) (cur : Word) : IgnoresPollDelay d (measurePolled n cur) := by
  intro s
  unfold measurePolled
  rw [withPollDelay_pollLimit]
  split
  · rfl
  · split <;> rfl

theorem execMeasure_ignoresPollDelay (g : Word) : IgnoresPollDelay d (execMeasure g) := by
  intro s
  unfold execMeasure
  rw [withPollDelay_st, withPollDelay_finL, withPollDelay_npoll]
  cases s.st with
  | mReq =>
    cases s.finL with
    | none => rfl
    | some F => exact memWrite_ignoresPollDelay _ _ (fun _ => rfl) s
  | mPoll =>
    cases s.npoll with
    | none => rfl
    | some n => exact memRead_ignoresPollDelay _ (measurePolled_ignoresPollDelay n) s
  | mReady => exact memRead_ignoresPollDelay _ (fun _ _ => rfl) s
  | _ => rfl

theorem getThreshold_ignoresPollDelay (i : Instr) : IgnoresPollDelay d (getThreshold i) := by
  intro s
  unfold getThreshold
  rw [withPollDelay_st]
  cases s.st with
  | thRd => exact memRead_ignoresPollDelay _ (fun _ _ => rfl) s
  | _ => rfl

theorem setThreshold_ignoresPollDelay (i : Instr) : IgnoresPollDelay d (setThreshold i) := by
  intro s
  unfold setThreshold
  rw [withPollDelay_st]
  cases s.st with
  | idle => dsimp only; split <;> rfl
  | thWr => exact memWrite_ignoresPollDelay _ _ (fun _ => rfl) s
  | _ => rfl

theorem pureComplete_ignoresPollDelay (v : Word) (F : Option ConfigFields) :
    IgnoresPollDelay d (pureComplete v F) := by
  intro s
  unfold pureComplete
  rw [withPollDelay_st]
  cases s.st <;> rfl

theorem execThEncode_ignoresPollDelay (arg : Word) : IgnoresPollDelay d (execThEncode arg) := by
  intro s
  unfold execThEncode
  rw [withPollDelay_st, pureComplete_ignoresPollDelay]
  cases s.st with
  | idle => dsimp only; split <;> rfl
  | _ => rfl

/-- Every command ignores `POLL_DELAY`, family by family. -/
theorem exec_ignoresPollDelay (i : Instr) : IgnoresPollDelay d (exec i) := by
  obtain ⟨f, a, rfl⟩ | ⟨f, a, rfl⟩ | ⟨a, rfl⟩ | ⟨a, rfl | rfl⟩ | ⟨a, rfl | rfl⟩ |
    ⟨a, rfl | rfl | rfl | rfl | rfl⟩ := instr_families i
  · intro s
    rw [exec_getInstr, exec_getInstr, getField_ignoresPollDelay]
  · intro s
    rw [exec_setInstr, exec_setInstr, setField_ignoresPollDelay]
  · exact execMeasure_ignoresPollDelay a
  · exact getThreshold_ignoresPollDelay _
  · exact getThreshold_ignoresPollDelay _
  · exact setThreshold_ignoresPollDelay _
  · exact setThreshold_ignoresPollDelay _
  · exact fun s => pureComplete_ignoresPollDelay (encodeConfig s.reqFields) none s
  · exact pureComplete_ignoresPollDelay _ _
  · exact execThEncode_ignoresPollDelay a
  · exact pureComplete_ignoresPollDelay _ _
  · exact pureComplete_ignoresPollDelay _ _

theorem transactionStep_ignoresPollDelay : IgnoresPollDelay d transactionStep := by
  intro s
  unfold transactionStep
  rw [latchedInstr_withPollDelay]
  cases latchedInstr s with
  | none => rfl
  | some i => exact exec_ignoresPollDelay i s

theorem acceptStep_ignoresPollDelay : IgnoresPollDelay d acceptStep := by
  intro s
  unfold acceptStep
  rw [withPollDelay_reqCmd]
  cases decode s.reqCmd with
  | command i => exact exec_ignoresPollDelay i s
  | refuse reason => rfl

theorem callerMove_withPollDelay (s : State) :
    callerMove (withPollDelay d s) = withPollDelay d (callerMove s) := by
  unfold callerMove
  rw [withPollDelay_callerQueue]
  cases s.callerQueue <;> rfl

theorem step_ignoresPollDelay : IgnoresPollDelay d step := by
  intro s
  unfold step
  rw [withPollDelay_resetPin, withPollDelay_busy, withPollDelay_reqValid, transactionStep_ignoresPollDelay,
    acceptStep_ignoresPollDelay, callerMove_withPollDelay]
  cases s.resetPin with
  | asserted u => rfl
  | released =>
    dsimp only
    split
    · rfl
    · split <;> rfl

end

/-- Settles O50: every operation a step is made of ignores the parameter. -/
theorem pollDelayIsReadByNoRule : Obligations.PollDelayIsReadByNoRule :=
  fun s _ => step_ignoresPollDelay s

end Sys2Proof.Machine

namespace Sys2Proof.Machine

open Sys2Proof

section

variable {i : Instr} {s : State} {r : Reg} {a : Answer} {rest : Answers} {op : BitVec 8} {arg : Word}

/-! ### The admission check of format S (30_encoding.md R83; 44_threshold.md R204) -/

/-- The three opcodes whose argument is a threshold decode as format S does. -/
theorem decode_signedWord (signed : op = 0x41 ∨ op = 0x43 ∨ op = 0x52) (arg : Word) :
    ∃ mk, decode (op ++ arg) = decodeSigned mk arg := by
  rw [decode_append]
  obtain rfl | rfl | rfl := signed
  · exact ⟨.setLoThresh, rfl⟩
  · exact ⟨.setHiThresh, rfl⟩
  · exact ⟨.thEncode, rfl⟩

/-- The accept step of an admitted command leaves the mark `refused` as it was. -/
theorem exec_idle_refused (idle : s.st = .idle) (wf : i.wellFormed = true) :
    ∃ t, exec i s = .next t ∧ t.refused = s.refused := by
  obtain ⟨t, next⟩ := exec_idle i idle
  obtain same | ⟨-, unfit⟩ := (exec_move next).refused_eq
  · exact ⟨t, next, same⟩
  · cases wf.symm.trans unfit

/-! ### The one call of a threshold command (44_threshold.md R200 to R203) -/

theorem thresholdReg_getLoThresh (arg : Word) : thresholdReg (opcode (.getLoThresh arg)) = .lowThreshold :=
  (by decide : thresholdReg 0x40 = .lowThreshold)

theorem thresholdReg_setLoThresh (arg : Word) : thresholdReg (opcode (.setLoThresh arg)) = .lowThreshold :=
  (by decide : thresholdReg 0x41 = .lowThreshold)

theorem thresholdReg_getHiThresh (arg : Word) : thresholdReg (opcode (.getHiThresh arg)) = .highThreshold :=
  (by decide : thresholdReg 0x42 = .highThreshold)

theorem thresholdReg_setHiThresh (arg : Word) : thresholdReg (opcode (.setHiThresh arg)) = .highThreshold :=
  (by decide : thresholdReg 0x43 = .highThreshold)

/-- The read of a threshold GET ends it: the sign-extended threshold, or the status of a read that failed. -/
theorem getThreshold_answered (st : s.st = .thRd) (ans : s.draw = some (a, rest)) :
    getThreshold i s = .next (if a.status = 0 then
        responded [okRead s.params (thresholdReg (opcode i)) a.b0 a.b1]
          (okResponse (sext16 (thresholdDecode (wordOfBytes a.b0 a.b1)))) rest s
      else
        responded [failedRead s.params (thresholdReg (opcode i)) a.status] (transportErrorResponse a.status) rest s) := by
  simp only [getThreshold, st]
  by_cases good : a.status = 0
  · rw [memRead_ok ans good, completeOk_answered, callEvent_okRead good, if_pos good]
  · rw [memRead_aborts ans good, if_neg good]

/-- The write of a threshold SET ends it, whatever the answer. -/
theorem setThreshold_answered (st : s.st = .thWr) (ans : s.draw = some (a, rest)) :
    setThreshold i s =
      .next (responded [wrote s.params (thresholdReg (opcode i)) (firstByte (thresholdWord i.argument))
          (secondByte (thresholdWord i.argument)) a.status]
        (if a.status = 0 then okResponse 0 else transportErrorResponse a.status) rest s) := by
  simp only [setThreshold, st]
  exact memWrite_completes 0 ans

/-- The word a threshold SET writes is sixteen times its twelve-bit operand. -/
theorem thresholdWord_toNat (arg : Word) : (thresholdWord arg).toNat = arg.toNat % 4096 * 16 := by
  rw [thresholdWord, thresholdEncode_toNat, thresholdOperand, BitVec.extractLsb'_toNat, Nat.shiftRight_zero]

/-! ### From a presented threshold word to its response (44_threshold.md R205) -/

/-- A presented threshold GET is accepted in one step, and its read, the second, ends it. -/
theorem steps_presents_getThreshold (is : exec i = getThreshold i) (wf : i.wellFormed = true)
    (path : (busyPath i).head? = some .thRd) (reg : thresholdReg (opcode i) = r)
    (h : presents s (opcode i) i.argument) (ans : s.draw = some (a, rest)) :
    steps 2 s = .next (if a.status = 0 then
        responded [okRead s.params r a.b0 a.b1] (okResponse (sext16 (thresholdDecode (wordOfBytes a.b0 a.b1)))) rest
          { s with reqValid := false }
      else
        responded [failedRead s.params r a.status] (transportErrorResponse a.status) rest
          { s with reqValid := false }) := by
  have reads := getThreshold_answered (i := i) (s := accept i .thRd s) rfl ans
  rw [responded_accept, responded_accept, reg, ← is] at reads
  exact steps_presents h rfl wf path nofun reads

/-- A presented threshold SET is accepted in one step, and its write, the second, ends it. -/
theorem steps_presents_setThreshold (is : exec i = setThreshold i) (wf : i.wellFormed = true)
    (path : (busyPath i).head? = some .thWr) (reg : thresholdReg (opcode i) = r)
    (h : presents s (opcode i) i.argument) (ans : s.draw = some (a, rest)) :
    steps 2 s = .next (responded [wrote s.params r (firstByte (thresholdWord i.argument))
        (secondByte (thresholdWord i.argument)) a.status]
      (if a.status = 0 then okResponse 0 else transportErrorResponse a.status) rest { s with reqValid := false }) := by
  have writes := setThreshold_answered (i := i) (s := accept i .thWr s) rfl ans
  rw [responded_accept, reg, ← is] at writes
  exact steps_presents h rfl wf path nofun writes

end

/-- Settles O6: the admission check is the range; a word it admits decodes to a command, whose accept step leaves the
mark. -/
theorem outOfRangeThresholdIsRefused : Obligations.OutOfRangeThresholdIsRefused := by
  intro op arg s signed presented
  obtain ⟨released, idle, valid, word⟩ := id presented
  obtain ⟨mk, decodes⟩ := decode_signedWord signed arg
  rw [← word, decodeSigned] at decodes
  rw [← thresholdFits_iff]
  refine ⟨fun unfit => ?_, fun fits => ?_⟩
  · rw [if_neg unfit] at decodes
    exact (step_presents presented).trans (acceptStep_refuse decodes)
  · rw [if_pos fits] at decodes
    obtain ⟨-, wf⟩ := decode_eq_command.1 decodes
    obtain ⟨t, next, same⟩ := exec_idle_refused idle wf
    exact ⟨t, (step_accept released idle valid decodes).trans next, same, thresholdOperand_toInt fits⟩

/-- Settles O32: the read step with either answer; the value is the signed word's quotient by 16. -/
theorem thresholdGetSignExtends : Obligations.ThresholdGetSignExtends := by
  intro i r ignored s a rest command st ans
  obtain ⟨is, reg⟩ : exec i = getThreshold i ∧ thresholdReg (opcode i) = r := by
    obtain ⟨rfl, rfl⟩ | ⟨rfl, rfl⟩ := command
    · exact ⟨rfl, thresholdReg_getLoThresh ignored⟩
    · exact ⟨rfl, thresholdReg_getHiThresh ignored⟩
  rw [is, getThreshold_answered st ans, reg]
  refine ⟨fun good => ⟨_, by rw [if_pos good], ?_⟩, fun bad => by rw [if_neg bad]⟩
  rw [sext16_toInt, thresholdDecode_toInt]

/-- Settles O33: the write step with either answer, of the operand's word. -/
theorem thresholdSetLeftJustifies : Obligations.ThresholdSetLeftJustifies := by
  intro i r arg s a rest command st ans
  obtain ⟨is, reg, rfl⟩ : exec i = setThreshold i ∧ thresholdReg (opcode i) = r ∧ i.argument = arg := by
    obtain ⟨rfl, rfl⟩ | ⟨rfl, rfl⟩ := command
    · exact ⟨rfl, thresholdReg_setLoThresh arg, rfl⟩
    · exact ⟨rfl, thresholdReg_setHiThresh arg, rfl⟩
  rw [is, setThreshold_answered st ans, reg]
  exact ⟨_, rfl, thresholdWord_toNat i.argument, fun inRange => thresholdWord_toInt (thresholdFits_iff.2 inRange)⟩

/-- Settles O34: the accept step, and the one transaction of each of the four commands. -/
theorem thresholdCommandsMakeOneCall : Obligations.ThresholdCommandsMakeOneCall := by
  intro arg s a rest ans
  refine ⟨fun op r command presented => ?_, fun op r command presented inRange => ?_⟩
  · obtain ⟨rfl, rfl⟩ | ⟨rfl, rfl⟩ := command
    · exact steps_presents_getThreshold (i := .getLoThresh arg) rfl rfl rfl (thresholdReg_getLoThresh arg) presented ans
    · exact steps_presents_getThreshold (i := .getHiThresh arg) rfl rfl rfl (thresholdReg_getHiThresh arg) presented ans
  · have fits := thresholdFits_iff.2 inRange
    obtain ⟨rfl, rfl⟩ | ⟨rfl, rfl⟩ := command
    · exact steps_presents_setThreshold (i := .setLoThresh arg) rfl fits rfl (thresholdReg_setLoThresh arg) presented ans
    · exact steps_presents_setThreshold (i := .setHiThresh arg) rfl fits rfl (thresholdReg_setHiThresh arg) presented ans

end Sys2Proof.Machine

namespace Sys2Proof.Machine

open Sys2Proof

section

variable {i : Instr} {s t : State} {a : Answer} {rest more : Answers} {g : Word} {k : Nat}
  {es : List Event}

/-! ### The abort of a failing call (60_exceptions.md R221, R225) -/

/-- A failing call leaves its status and no bytes, whether it reads or writes (20_memory.md R54). -/
theorem callEvent_of_status_ne_zero (c : Call) (bad : a.status ≠ 0) : callEvent c a = .call c a.status none := by
  unfold callEvent
  split
  · rw [if_neg bad]
  · rfl

/-- A busy move whose call fails is the abort: every other move of a busy state needs an answer with status 0. -/
theorem Move.aborts (m : Move i s t) (busy : s.st ≠ .idle) (ans : s.draw = some (a, rest)) (bad : a.status ≠ 0) :
    ∃ c, namedCall (withLatches i s) = some c ∧
      t = responded [.call c a.status none] (transportErrorResponse a.status) rest s := by
  cases m with
  | accepted _ idle | acceptedMeasure _ idle | pure _ _ idle | refused _ idle => exact absurd idle busy
  | failed c _ _ _ call ans' =>
    cases ans.symm.trans ans'
    exact ⟨c, call, by rw [abort_answered, callEvent_of_status_ne_zero c bad]⟩
  | done _ _ _ _ _ _ ans' good | toWrite _ _ _ _ _ _ ans' good | started _ _ _ _ _ _ _ ans' good
  | ready _ _ _ _ _ _ _ ans' good | polled _ _ _ _ _ _ _ ans' good | timedOut _ _ _ _ _ _ _ ans' good =>
    cases ans.symm.trans ans'
    exact absurd good bad

/-- A busy block whose latches fit makes a step where the transport answers. -/
theorem step_busy_next (released : s.resetPin = .released) (fit : latchesFit s = true) (busy : s.st ≠ .idle)
    (ans : s.draw = some (a, rest)) : ∃ t, step s = .next t := by
  obtain ⟨-, next⟩ | ⟨silent, -⟩ := step_busy_proceeds released fit busy
  · exact next
  · cases ans.symm.trans silent

/-! ### The timeout of a bounded MEASURE (43_measure.md R182; 60_exceptions.md R222) -/

/-- The busy poll that reaches the limit ends a polling MEASURE with TIMEOUT. -/
theorem step_polling_times_out (runs : RunsMeasure g s) (ans : more.draw s.params.statusW = some (a, rest))
    (good : a.status = 0) (notReady : conversionComplete (wordOfBytes a.b0 a.b1) = false)
    (limit : s.params.pollLimit = some (k + 1)) : step (polling k es more s) =
      .next (responded (es ++ [okRead s.params .config a.b0 a.b1]) timeoutResponse rest s) := by
  have reached := pollLimitReached_eq_true.2 ⟨k + 1, limit, le_rfl⟩
  rw [runs.step_polling, measure_poll_times_out (s := polling k es more s) rfl rfl ans good notReady reached,
    responded_polling]
  rfl

end

/-- Settles O40: the step answers a next state, a move of the latched command, which is the abort of its call. -/
theorem failingCallAbortsAnyCommand : Obligations.FailingCallAbortsAnyCommand := by
  intro s a rest released fit busy ans bad
  obtain ⟨i, latched⟩ := exists_latchedInstr fit busy
  obtain ⟨t, next⟩ := step_busy_next released fit busy ans
  have m : Move i s t := exec_move (step_latched released busy latched ▸ next)
  obtain ⟨c, call, rfl⟩ := m.aborts busy ans bad
  exact ⟨c, withLatches_latched latched ▸ call, next⟩

/-- Settles O31: the polls before the last stay below the limit, and the last, busy too, reaches it. -/
theorem boundedMeasureTimesOut : Obligations.BoundedMeasureTimesOut := by
  intro arg s start busy rest presented gives goodStart polls nonempty limit
  obtain ⟨before, last, rfl⟩ := (List.eq_nil_or_concat' busy).resolve_left (List.ne_nil_of_length_pos nonempty)
  obtain ⟨more, given, _, ans, rfl⟩ := give_append (as := start :: before).1 gives
  rw [List.length_append, List.length_singleton] at limit ⊢
  obtain ⟨polls, lastPoll⟩ := List.forall_mem_append.1 polls
  obtain ⟨goodLast, notReady⟩ := lastPoll last List.mem_cons_self
  have below : ∀ n, s.params.pollLimit = some n → before.length < n := by simp [limit]
  have runs := runsMeasure_measureAccept presented
  have polled := steps_measure_polling presented given goodStart polls below
  rw [Nat.add_right_comm, steps_add (n := 1) polled,
    steps_succ (step_polling_times_out runs ans goodLast notReady limit), responded_measureAccept, pollEvents_append]
  rfl

end Sys2Proof.Machine

namespace Sys2Proof.Machine

open Sys2Proof

section

variable {s : State} {a start : Answer} {arg : Word}

/-! ### A reset (70_reset_and_hazards.md R240, R241) -/

/-- A reset has priority over every other step. -/
theorem step_asserted {underWay : Bool} (pin : s.resetPin = .asserted underWay) :
    step s = .next (blockReset underWay s) := by
  simp only [step, pin]

/-- A call under way is the named one, and `st` may name none. -/
theorem cutEvents_eq (underWay : Bool) (s : State) :
    cutEvents underWay s = if underWay then (namedCall s).toList.map Event.cut else [] := by
  unfold cutEvents
  cases underWay with
  | false => rfl
  | true => cases namedCall s <;> rfl

/-! ### A MEASURE that is never ready (70_reset_and_hazards.md R246) -/

/-- An answer given for ever is given any number of times. -/
theorem give_replicate_forever (w n : Nat) (a : Answer) :
    Answers.give w (List.replicate n a) (.forever a) (.forever a) := by
  induction n with
  | zero => rfl
  | succ n ih => exact ⟨.forever a, draw_forever w a, ih⟩

/-- A busy poll's answer given for ever makes every poll busy. -/
theorem exists_busyPolls_of_forever (answers : s.answers = .next start (.forever a)) (good : a.status = 0)
    (notReady : conversionComplete (wordOfBytes a.b0 a.b1) = false) (n : Nat) :
    ∃ busy rest, busy.length = n ∧ busyPolls busy ∧ s.gives (start :: busy) rest := by
  refine ⟨List.replicate n a, .forever a, List.length_replicate, fun b mem => ?_, .forever a, ?_,
    give_replicate_forever s.params.statusW n a⟩
  · rw [List.eq_of_mem_replicate mem]
    exact ⟨good, notReady⟩
  · rw [answers, draw_next]

end

/-- Settles O30: without a limit every number of polls is below it. -/
theorem unboundedMeasureHangs : Obligations.UnboundedMeasureHangs := by
  intro arg s start busy rest presented gives goodStart polls unbounded
  rw [steps_measure_polling presented gives goodStart polls (by simp [unbounded])]
  rfl

/-- A MEASURE just accepted, with no limit and with busy polls of any number to come, is busy after every step: in
`M_REQ` at first, and polling after any step more. -/
theorem hangs_measureAccept {s : State} {start : Answer} {arg : Word} (h : presents s 0x30 arg)
    (unbounded : s.params.pollLimit = none) (good : start.status = 0)
    (endless : ∀ n, ∃ busy rest, busy.length = n ∧ busyPolls busy ∧ s.gives (start :: busy) rest) :
    Hangs (measureAccept arg s) := by
  intro n
  cases n with
  | zero => exact ⟨_, rfl, nofun⟩
  | succ n =>
    obtain ⟨busy, rest, rfl, polls, gives⟩ := endless n
    have polled := unboundedMeasureHangs arg s start busy rest h gives good polls unbounded
    rw [steps_succ (step_presents_measure h)] at polled
    exact ⟨_, polled, nofun⟩

/-- Settles O59: the accepted MEASURE hangs, and an answer given for ever is a transport without end. -/
theorem measureHangIsARunWithoutEnd : Obligations.MeasureHangIsARunWithoutEnd := by
  intro arg s start presented unbounded goodStart
  have hangs := hangs_measureAccept presented unbounded goodStart
  have accepted := step_presents_measure presented
  exact ⟨fun endless => ⟨_, accepted, rfl, hangs endless⟩, fun a answers good notReady =>
    ⟨_, accepted, rfl, hangs (exists_busyPolls_of_forever answers good notReady)⟩⟩

/-- Settles O45: the step is the block reset, which records the named call as cut where one is under way. -/
theorem blockResetEndsTheCommand : Obligations.BlockResetEndsTheCommand := by
  intro s underWay pin
  rw [step_asserted pin, blockReset, cutEvents_eq]

end Sys2Proof.Machine
